-- ==== Sys2Proof/Word.lean ====
section
/-! DEFINITION. The words of the block (00_scope R7): unsigned, of 8, 16 and 32 bits. Loop indices, cell indices
and memory addresses are plain natural numbers, as R7 and 20_memory R64 say (`nat`, exact). -/

namespace Sys2Proof

/-- u8 (R7): every bus access moves one (20_memory R62). -/
abbrev Byte := BitVec 8

/-- u16 (R7): a port address (00_scope R6, PORT_WIDTH). -/
abbrev Port := BitVec 16

/-- u32 (R7): a host-interface register and a command word (10_state R22, 30_encoding R80). -/
abbrev Word := BitVec 32

end Sys2Proof
end

