-- ==== Sys2Proof/Syntax.lean ====
section
/-! DEFINITION. The eight commands, one constructor for each row of spec/opcode_table.json (30_encoding R82). -/

namespace Sys2Proof

/-- A command (30_encoding R82). The operands PTR and LEN stand in registers (R84), so only PRINTAT carries
operands: COL and ROW as the u8 that R84 assembles (`zext_8(w[14:8])`, `zext_8(w[19:15])`). -/
inductive Instr where
  /-- OP 0x01, Initialize (40_uart R100). -/
  | init
  /-- OP 0x02, TransmitReady (40_uart R101). -/
  | txrdy
  /-- OP 0x03, SendLine (40_uart R102). -/
  | sendline
  /-- OP 0x04, Clear (41_console R130). -/
  | clear
  /-- OP 0x05, Print (41_console R131). -/
  | print
  /-- OP 0x06, PrintAt (41_console R134). -/
  | printat (col : Byte) (row : Byte)
  /-- OP 0x07, Panic (41_console R135). -/
  | panic
  /-- OP 0x08, the process entry point (42_boot R170). -/
  | boot
  deriving DecidableEq, Repr

end Sys2Proof
end

