-- ==== Sys2Proof/WellFormed.lean ====
section
/-! DEFINITION. Which commands an encoding exists for: the COL field has 7 bits and the ROW field 5
(30_encoding R81). Coordinates the screen does not have (80..127, 25..31) are well formed: "A PRINTAT with such a
field is not illegal at decode" (R85). -/

namespace Sys2Proof

/-- The operands fit their fields of the command word (30_encoding R81). -/
def Instr.wellFormed : Instr → Bool
  | .printat col row => decide (col.toNat < 128) && decide (row.toNat < 32)
  | .init => true
  | .txrdy => true
  | .sendline => true
  | .clear => true
  | .print => true
  | .panic => true
  | .boot => true

end Sys2Proof
end

