-- ==== Sys2Proof/Decode.lean ====
section
/-! DEFINITION. The command word (30_encoding R80 to R86): its fields, the decoder, total on all 2^32 words, and
the encoder. -/

namespace Sys2Proof

/-- Why a word decodes to no command (30_encoding R85). The machine faults ILLEGAL_CMD on each of them. -/
inductive Illegal where
  /-- "any non-zero RSV". -/
  | reservedBits
  /-- "a non-zero COL or ROW with OP other than 0x06". -/
  | operandBits
  /-- "OP = 0x00; OP in 0x09..0xFF". -/
  | opcode
  deriving DecidableEq, Repr

/-- What Decode answers (30_encoding R83): `Command or Illegal`. -/
inductive Decoded where
  | command (i : Instr)
  | illegal (why : Illegal)
  deriving DecidableEq, Repr

/-- OP, bits [7:0] (30_encoding R81). -/
def opField (w : Word) : BitVec 8 := w.extractLsb' 0 8

/-- COL, bits [14:8] (30_encoding R81). -/
def colField (w : Word) : BitVec 7 := w.extractLsb' 8 7

/-- ROW, bits [19:15] (30_encoding R81). -/
def rowField (w : Word) : BitVec 5 := w.extractLsb' 15 5

/-- RSV, bits [31:20] (30_encoding R81). -/
def rsvField (w : Word) : BitVec 12 := w.extractLsb' 20 12

/-- The commands without operands, by their OP (30_encoding R82). -/
def decodePlain (op : BitVec 8) : Decoded :=
  if op = 0x01#8 then .command .init
  else if op = 0x02#8 then .command .txrdy
  else if op = 0x03#8 then .command .sendline
  else if op = 0x04#8 then .command .clear
  else if op = 0x05#8 then .command .print
  else if op = 0x07#8 then .command .panic
  else if op = 0x08#8 then .command .boot
  else .illegal .opcode

/-- Decode (30_encoding R83). COL and ROW are zero-extended to u8 (R84). -/
def decode (w : Word) : Decoded :=
  if rsvField w ≠ 0#12 then .illegal .reservedBits
  else if opField w = 0x06#8 then
    .command (.printat ((colField w).setWidth 8) ((rowField w).setWidth 8))
  else if colField w ≠ 0#7 ∨ rowField w ≠ 0#5 then .illegal .operandBits
  else decodePlain (opField w)

/-- OP of a command (30_encoding R82). -/
def opcodeOf : Instr → BitVec 8
  | .init => 0x01#8
  | .txrdy => 0x02#8
  | .sendline => 0x03#8
  | .clear => 0x04#8
  | .print => 0x05#8
  | .printat _ _ => 0x06#8
  | .panic => 0x07#8
  | .boot => 0x08#8

/-- The command word of a command (30_encoding R81, R87: `0x06 | col<<8 | row<<15`). -/
def encode (i : Instr) : Word :=
  match i with
  | .printat col row =>
    (opcodeOf (.printat col row)).setWidth 32 ||| (col.setWidth 32 <<< 8) ||| (row.setWidth 32 <<< 15)
  | .init => (opcodeOf .init).setWidth 32
  | .txrdy => (opcodeOf .txrdy).setWidth 32
  | .sendline => (opcodeOf .sendline).setWidth 32
  | .clear => (opcodeOf .clear).setWidth 32
  | .print => (opcodeOf .print).setWidth 32
  | .panic => (opcodeOf .panic).setWidth 32
  | .boot => (opcodeOf .boot).setWidth 32

/-- The bits of a command word that its row of the opcode table fixes (30_encoding R83, the match/mask pairs). -/
def encodingMask : Instr → Word
  | .printat _ _ => 0xFFF000FF#32
  | .init => 0xFFFFFFFF#32
  | .txrdy => 0xFFFFFFFF#32
  | .sendline => 0xFFFFFFFF#32
  | .clear => 0xFFFFFFFF#32
  | .print => 0xFFFFFFFF#32
  | .panic => 0xFFFFFFFF#32
  | .boot => 0xFFFFFFFF#32

/-- A table word as CMD holds it: its first `nbits` bits, every bit above them 0. -/
def tableWord (nbits w : Nat) : Word := BitVec.ofNat 32 (w % 2 ^ nbits)

/-- The command a table word decodes to. A command is one 32-bit word (30_encoding R80), so the table's bit
numbering is the register's. -/
def decodeTableWord (nbits w : Nat) : Option Instr :=
  match decode (tableWord nbits w) with
  | .command i => some i
  | .illegal _ => none

end Sys2Proof
end

