-- ==== Sys2Proof/Config.lean ====
section
/-! DEFINITION. What a platform fixes (the parameters of 00_scope R6 and 93 I1, I28) and the free values
that nothing in Lean can evaluate: the UART oracle's draws, the framebuffer's content at reset, the text bytes the
host has not supplied. -/

namespace Sys2Proof

/-- One bus access as the model records it (20_memory R77). -/
inductive Event where
  /-- `PR(p, v)`: a port read of `p` that returned `v`. -/
  | pr (p : Port) (v : Byte)
  /-- `PW(p, v)`: a port write. -/
  | pw (p : Port) (v : Byte)
  /-- `MR(a, v)`: a memory read. -/
  | mr (a : Nat) (v : Byte)
  /-- `MW(a, v)`: a memory write. -/
  | mw (a : Nat) (v : Byte)
  deriving DecidableEq, Repr

/-- A run of `size` addresses from `base`. READABLE is a list of them (log 18). -/
structure Region where
  base : Nat
  size : Nat
  deriving DecidableEq, Repr

/-- A valid divisor of the UART: "A divisor of 0 is not a 'valid divisor value'. The ENGINE never writes one" (10_state R49,
93 I29), so there is none in any state. -/
structure Divisor where
  bits : BitVec 16
  valid : bits ≠ 0x0000#16
  deriving DecidableEq, Repr

/-- The parameters: those of 00_scope R6 that the spec leaves OPEN or decides by a D-number, the base of the host's
register window (93 I28), and the document's numeric literals, which 93 I1 makes named arguments with the document's
value as the default (log 17). They stand in the state, so that a statement about every state is a statement about every
value of them; no step changes them. -/
structure Params where
  /-- COLS, text columns (80; R6, I1). -/
  cols : Nat
  /-- ROWS, text rows (25; R6, I1). -/
  rows : Nat
  /-- PRINT_ATTR (0x0F; R6, I1). -/
  printAttr : Byte
  /-- PANIC_COL (40; R6, I1). -/
  panicCol : Nat
  /-- PANIC_ROW (12; R6, I1). -/
  panicRow : Nat
  /-- TEST_BYTE (0x55; R6, I1). -/
  testByte : Byte
  /-- DIVISOR, the 16-bit divisor (1; R6, I1), never 0 (10_state R49). -/
  divisor : Divisor
  /-- BASE_CLOCK, in baud (115200; R6, I1). -/
  baseClock : Nat
  /-- The carriage return SendBody sends (0x0D; 40_uart R105, I1). -/
  carriageReturn : Byte
  /-- The line feed SendBody sends (0x0A; 40_uart R105, I1). -/
  lineFeed : Byte
  /-- PANIC_MSG ("COM1 error."; R6, 42_boot R172). -/
  panicMsg : List Byte
  /-- The base address of the host's register window (10_state R22, 93 I28; OPEN, log 30). -/
  hostBase : Nat
  /-- UART_BASE (D4, OPEN). -/
  uartBase : Port
  /-- VGA_BASE (D6, OPEN). -/
  vgaBase : Nat
  /-- ADDR_WIDTH (D7). -/
  addrWidth : Nat
  /-- READABLE (D23, OPEN): the regions outside the framebuffer that text may be read from. -/
  readable : List Region
  /-- LCR_DLAB (D9). -/
  lcrDlab : Byte
  /-- LCR_8N1 (D9). -/
  lcr8n1 : Byte
  /-- FCR_INIT (D11). -/
  fcrInit : Byte
  /-- IER_OFF (D12). -/
  ierOff : Byte
  /-- MCR_NORMAL (D13). -/
  mcrNormal : Byte
  /-- MCR_LOOP (D13). -/
  mcrLoop : Byte
  /-- MCR_FINAL (D13). -/
  mcrFinal : Byte
  /-- THRE_MASK (D15). -/
  threMask : Byte
  /-- PANIC_ATTR (D20, 90_conflicts C1). -/
  panicAttr : Byte
  /-- PANIC_FILL_CHAR (D21). -/
  panicFillChar : Byte
  /-- BOOT_MSG (D25, OPEN). -/
  bootMsg : List Byte
  deriving DecidableEq, Repr

/-- FREE VALUE (log 8). What the UART answers to a read of a port after the given event history (newest first):
"The value PortRead(p) returns is a draw" (20_memory R66). Used where the state lists no answer. -/
opaque Config.portDraw : List Event → Port → Byte

/-- FREE VALUE (log 10). What the framebuffer byte at an address holds after the n-th reset, until it is written:
"unspecified: any value" (70_reset R210). -/
opaque Config.fbAtReset : Nat → Nat → Byte

/-- FREE VALUE (log 11). What a READABLE byte outside the framebuffer holds while the host has not supplied it:
"Its reset contents belong to the host" (10_state R32). -/
opaque Config.launchByte : Nat → Byte

end Sys2Proof
end

