-- ==== Sys2Proof/Machine/Params.lean ====
section
/-! DEFINITION. What follows from the parameters by 00_scope R6's own equations (CELLS, FB_BYTES, the bytes of DIVISOR),
READABLE as a test, and the values R6 shows, the document's literals among them (93 I1, log 17). -/

namespace Sys2Proof.Machine

/-- CELLS = COLS*ROWS, 2000 (R6). -/
def cells (p : Params) : Nat := p.cols * p.rows
/-- FB_BYTES = 2*CELLS, 4000 (R6). -/
def fbBytes (p : Params) : Nat := 2 * cells p
/-- DLL's byte of DIVISOR (R6, D10). -/
def divisorLow (p : Params) : Byte := p.divisor.bits.extractLsb' 0 8
/-- DLM's byte of DIVISOR (R6, D10). -/
def divisorHigh (p : Params) : Byte := p.divisor.bits.extractLsb' 8 8
/-- The byte that ends a Print or PrintAt text (41_console R132, R137; D18). -/
def terminator : Byte := 0x00#8
/-- The address lies in the region. -/
def regionHolds (r : Region) (a : Nat) : Bool := decide (r.base ≤ a) && decide (a < r.base + r.size)

/-- READABLE(a) (R6, 20_memory R64). -/
def isReadable (p : Params) (a : Nat) : Bool := p.readable.any (fun r => regionHolds r a)

/-- The programmed rate BASE_CLOCK / d of a valid divisor d >= 1 (40_uart R106); a divisor of 0 is not valid
(10_state R49), so it has none. -/
def baudRate (p : Params) (divisor : Nat) : Option Nat :=
  if divisor = 0 then none else some (p.baseClock / divisor)

/-- PANIC_MSG as the document has it: "COM1 error." (42_boot R172). -/
def documentPanicMsg : List Byte :=
  [0x43#8, 0x4F#8, 0x4D#8, 0x31#8, 0x20#8, 0x65#8, 0x72#8, 0x72#8, 0x6F#8, 0x72#8, 0x2E#8]

/-- The parameters with the values of 00_scope R6: the document's literals (93 I1), its decided bytes, its reference
bases, and for what it leaves OPEN the choices of log 13 (bases), 15 (READABLE: nothing), 16 (BOOT_MSG: "OK", the
instance of 95_test_vectors 2.9) and 30 (the register window: 0). -/
def referenceParams : Params where
  cols := 80
  rows := 25
  printAttr := 0x0F#8
  panicCol := 40
  panicRow := 12
  testByte := 0x55#8
  divisor := ⟨0x0001#16, by decide⟩
  baseClock := 115200
  carriageReturn := 0x0D#8
  lineFeed := 0x0A#8
  panicMsg := documentPanicMsg
  hostBase := 0
  uartBase := 0x3F8#16
  vgaBase := 0xB8000
  addrWidth := 32
  readable := []
  lcrDlab := 0x80#8
  lcr8n1 := 0x03#8
  fcrInit := 0x07#8
  ierOff := 0x00#8
  mcrNormal := 0x0B#8
  mcrLoop := 0x1B#8
  mcrFinal := 0x0B#8
  threMask := 0x20#8
  panicAttr := 0x1F#8
  panicFillChar := 0x00#8
  bootMsg := [0x4F#8, 0x4B#8]

end Sys2Proof.Machine
end

