-- ==== Sys2Proof/Machine/State.lean ====
section
/-! DEFINITION. The state of the block as plain data (10_state): the ENGINE's registers, its sequencer SEQ, memory,
the UART device at the other end of the port bus, the event history, and the host's moves still to come. -/

namespace Sys2Proof.Machine

/-- STATUS.STATE (10_state R23). -/
inductive EngState where
  /-- 0: ready for a command. -/
  | idle
  /-- 1: a command is running. -/
  | busy
  /-- 2: BOOT has finished; no-return (42_boot R171). -/
  | done
  /-- 3: stopped by a fault (60_exceptions R183). -/
  | fault
  deriving DecidableEq, Repr

/-- The fault codes of 60_exceptions R182. "0x00 NONE" is `none` of the field `faultCode`. -/
inductive FaultCode where
  /-- 0x01: a CMD word that Decode maps to Illegal. -/
  | illegalCmd
  /-- 0x02: COL >= 80 or ROW >= 25. -/
  | printatCoord
  /-- 0x03: a PrintAt character at cell index >= 2000. -/
  | fbOverrun
  /-- 0x04: a text byte address outside FB and not READABLE. -/
  | srcUnmapped
  /-- 0x05: PTR + i >= 2^ADDR_WIDTH. -/
  | addrWrap
  deriving DecidableEq, Repr

/-- The accesses of FillBody (41_console R133), with its loop variable c. -/
inductive FillPt where
  /-- `MemWrite(CELL(c), 1, ch)`. -/
  | char (c : Nat)
  /-- `MemWrite(CELL(c)+1, 1, attr)`. -/
  | attr (c : Nat)
  deriving DecidableEq, Repr

/-- The accesses of InitBody (40_uart R103), each named for the register it means to reach. -/
inductive InitPt where
  | ier | lcrDlab | dll | dlm | lcr8n1 | fcr | mcrNormal | mcrLoop | thr | rbr | mcrFinal
  deriving DecidableEq, Repr

/-- The accesses of SendBody (40_uart R105) with its loop variable i and the byte b it read; each `poll` is one
iteration of WaitTx (R104). -/
inductive SendPt where
  | poll (i : Nat)
  | read (i : Nat)
  | write (i : Nat) (b : Byte)
  | pollCr
  | writeCr
  | pollLf
  | writeLf
  deriving DecidableEq, Repr

/-- The accesses of PrintBody (41_console R132) with its loop variables i, col, row and the byte b. -/
inductive PrintPt where
  | read (i col row : Nat)
  | char (i col row : Nat) (b : Byte)
  | attr (i col row : Nat)
  deriving DecidableEq, Repr

/-- The accesses of PrintAtBody (41_console R137) with its loop variables c, i and the byte b. -/
inductive PrintAtPt where
  | read (c i : Nat)
  | char (c i : Nat) (b : Byte)
  deriving DecidableEq, Repr

/-- SEQ (10_state R21): the command being run and the next access its pseudocode names. `empty` when no command
runs, and between a CMD write and the command's first step. TXRDY makes one access only, so it never stands here. -/
inductive Seq where
  | empty
  | init (p : InitPt)
  | sendline (p : SendPt)
  | clear (p : FillPt)
  | print (p : PrintPt)
  | printat (p : PrintAtPt)
  /-- PANIC, in FillBody. -/
  | panicFill (p : FillPt)
  /-- PANIC, in PrintAtBody. -/
  | panicMsg (p : PrintAtPt)
  /-- BOOT, in ClearBody. -/
  | bootClear (p : FillPt)
  /-- BOOT, in InitBody. -/
  | bootInit (p : InitPt)
  /-- BOOT, in the FillBody of PanicBody. -/
  | bootFill (p : FillPt)
  /-- BOOT, in the PrintAtBody of PanicBody. -/
  | bootMsg (p : PrintAtPt)
  /-- BOOT, in PrintBody. -/
  | bootPrint (p : PrintPt)
  /-- BOOT, in SendBody. -/
  | bootSend (p : SendPt)
  deriving DecidableEq, Repr

/-- Who answers port reads. -/
inductive UartMode where
  /-- The normative reading: an unconstrained oracle (20_memory R66). -/
  | oracle
  /-- REF, the deterministic 16550 of 10_state R45 (for vectors only). -/
  | ref
  /-- REF-DEAD: "every read returns 0xFF" (R45). -/
  | refDead
  /-- REF-NOECHO: "loopback writes are dropped" (R45). -/
  | refNoEcho
  deriving DecidableEq, Repr

/-- The UART at the other end of the port bus. In mode `oracle` only `answers` is used; the registers are those of
the reference device of 10_state R45 and change only in the modes `ref` and `refNoEcho` (log 9). -/
structure Uart where
  mode : UartMode
  /-- The oracle's answers still to come, the next first; where none is listed, a draw is the free value
  `Config.portDraw` (log 8). -/
  answers : List Byte
  /-- DLL and DLM (R49). -/
  dll : Byte
  dlm : Byte
  /-- IER (R46). -/
  ier : Byte
  /-- LCR (R41). -/
  lcr : Byte
  /-- MCR (R43). -/
  mcr : Byte
  /-- FCR (R42), write-only: FE, DMS and RTL as last written; RFR and TFR are self-clearing and the reserved bits hold 0
  (log 35). FEN of R45 is its bit 0. -/
  fcr : Byte
  /-- The receive FIFO (R50, R51), RX of R45. -/
  rx : List Byte
  /-- The transmit FIFO (R50, R51). The reference device's transmission is instantaneous (R45), so its accesses leave it
  empty (log 35). -/
  tx : List Byte
  /-- The bytes sent on the serial line, LINE of R45. -/
  line : List Byte
  deriving DecidableEq, Repr

/-- One move of the host (70_reset R225), held in the host's script (log 3, 4). -/
inductive HostMove where
  /-- A 32-bit write to the register at an address of the window (10_state R22). -/
  | write (addr : Nat) (v : Word)
  /-- A 32-bit read of the register at an address of the window; the value goes to `seen`. -/
  | read (addr : Nat)
  /-- The host supplies one byte of text-source memory (10_state R32, the directives of 30_encoding R87). -/
  | supply (a : Nat) (b : Byte)
  /-- The host polls STATUS until STATE != BUSY (R225, R87). -/
  | await
  /-- The host lets the ENGINE take one step: says where inside a command the next move lands. -/
  | letRun
  /-- The host asserts reset (70_reset R210). -/
  | reset
  deriving DecidableEq, Repr

/-- The state (10_state). -/
structure State where
  /-- The parameters (00_scope R6, 93 I1, I28); no step changes them. -/
  params : Params
  /-- CMD (R27). -/
  cmd : Word
  /-- PTR (R28). -/
  ptr : Word
  /-- LEN (R29). -/
  len : Word
  /-- STATUS.STATE (R23). -/
  state : EngState
  /-- STATUS.INIT_OK (R23). -/
  initOk : Bool
  /-- STATUS.TXRDY (R23). -/
  txrdy : Bool
  /-- STATUS.FAULT_CODE (R23): `none` is 0x00. -/
  faultCode : Option FaultCode
  /-- CURSOR_X (R24). -/
  cursorX : Byte
  /-- CURSOR_Y (R24). -/
  cursorY : Byte
  /-- FAULT_CMD (R26). -/
  faultCmd : Word
  /-- SEQ (R21). -/
  seq : Seq
  /-- MEM (20_memory R61): FB (R31) and LaunchMem (R32). Addresses strictly rise; an address not listed holds the
  free value that reset or the host left there (log 10, 11, 12). -/
  mem : List Host.Cell
  /-- The UART (section 3). -/
  uart : Uart
  /-- The event history (20_memory R77), newest first. -/
  history : List Event
  /-- The model's own: how many resets have been asserted, what `Config.fbAtReset` is applied to (log 10). -/
  resets : Nat
  /-- The model's own: the host's moves still to come (log 3). -/
  host : List HostMove
  /-- The model's own: the values the host's reads returned, newest first (log 6). -/
  seen : List Word
  deriving DecidableEq, Repr

/-- Why a step stops. None of these is a fault of the spec: those are next states (60_exceptions R183). -/
inductive Fault where
  /-- Raised by the step when STATE = IDLE and the host has no move left: the run has ended (60_exceptions R190 c).
  Safe: the spec has no step here. -/
  | idleRunEnded
  /-- Raised by the step when STATE = DONE and the host has no move left: "The ENGINE takes no further step" (42_boot
  R171, R190 a). Safe. -/
  | doneRunEnded
  /-- Raised by the step when STATE = FAULT and the host has no move left: "The ENGINE takes no further step in FAULT"
  (60_exceptions R183, R190 b). Safe. -/
  | faultRunEnded
  /-- Raised by a host write of CMD, PTR or LEN while BUSY: no move in the model (70_reset R225, 93 I23).
  Unsafe as the spec reckons it: D28 errs toward proving if a host breaks the duty (log 5). -/
  | hostWriteWhileBusy
  /-- Raised by a host write of CMD, PTR or LEN in DONE or FAULT: "only while IDLE. Other host moves do not exist" (92
  D28; for PTR and LEN the model's choice, log 34). Unsafe as `hostWriteWhileBusy` (log 5). -/
  | hostWriteWhenStopped
  /-- Raised when the host supplies text while BUSY: no move in the model (70_reset R225). Unsafe as
  `hostWriteWhileBusy` (log 5). -/
  | hostSupplyWhileBusy
  /-- Raised when the host supplies a byte where no text-source memory is: in FB, not READABLE, or at or above
  2^ADDR_WIDTH (10_state R32, 70_reset R225). Safe (log 5). -/
  | hostSupplyNoMemory
  /-- Raised by a host access at an offset that is not 32-bit aligned: no such access exists (10_state R22). Safe
  (log 7). -/
  | hostMisaligned
  /-- Raised by a host access below the base of the register window: no register of this block is there (10_state R22).
  Safe (log 30). -/
  | hostOutsideWindow
  /-- Raised by a MemWrite outside FB, which no command issues (20_memory R65): only a state that no run reaches
  raises it (log 20). Safe. -/
  | writeOutsideFb
  /-- Raised when SEQ names no access of the command being run: only a state that no run reaches raises it (10_state
  R21, log 20). Safe. -/
  | seqMismatch
  deriving DecidableEq, Repr

/-- What the model refuses: a command without a meaning, of which there is none, and a liberty not granted. -/
inductive Refusal where
  /-- Raised by exec for a command that is not modelled yet: none. Safe. -/
  | notModelled (mnemonic : String)
  /-- Raised by a host read of a register other than STATUS and CURSOR while BUSY: "A liberty the ENGINE does not grant is
  refused" (70_reset R225). Safe (log 34). -/
  | hostReadWhileBusy
  deriving DecidableEq, Repr

/-- The UART as the state after reset holds it: the oracle answers, none of its answers listed; the reference
device's registers at the reset of 10_state R45 (log 29). -/
def Uart.reset : Uart where
  mode := .oracle
  answers := []
  dll := 0x00#8
  dlm := 0x00#8
  ier := 0x00#8
  lcr := 0x00#8
  mcr := 0x00#8
  fcr := 0x00#8
  rx := []
  tx := []
  line := []

/-- The block right after its first reset (70_reset R210): every ENGINE register at the value the table states,
memory with nothing listed, no access made, no host move to come. -/
def State.reset : State where
  params := referenceParams
  cmd := 0x00000000#32
  ptr := 0x00000000#32
  len := 0x00000000#32
  state := .idle
  initOk := false
  txrdy := false
  faultCode := none
  cursorX := 0x00#8
  cursorY := 0x00#8
  faultCmd := 0x00000000#32
  seq := .empty
  mem := []
  uart := Uart.reset
  history := []
  resets := 0
  host := []
  seen := []

end Sys2Proof.Machine
end

