-- ==== Sys2Proof/Machine/Ops.lean ====
section
/-! DEFINITION. The named operations over memory, ports, the UART device and the ENGINE's registers: one byte of
memory read and written, one port access, entering FAULT, ending a command, reset. -/

namespace Sys2Proof.Machine

/-! ### Memory: sorted cells (log 12) -/

/-- Addresses strictly rise. An address that is not listed has no value of its own, so no entry can equal what an
unlisted address reads as. -/
def memSorted : List Host.Cell → Bool
  | [] => true
  | [_] => true
  | c :: d :: rest => decide (c.1 < d.1) && memSorted (d :: rest)

/-- The canonical form of memory. -/
abbrev Memory.wf (m : List Host.Cell) : Prop := memSorted m = true

/-- The byte listed for an address, if one is. -/
def memLookup : List Host.Cell → Nat → Option Byte
  | [], _ => none
  | (k, b) :: rest, a => if k = a then some b else memLookup rest a

/-- One byte written, in place or at the place that keeps the addresses rising. -/
def memWrite : List Host.Cell → Nat → Byte → List Host.Cell
  | [], a, v => [(a, v)]
  | (k, b) :: rest, a, v =>
    if a < k then (a, v) :: (k, b) :: rest
    else if a = k then (a, v) :: rest
    else (k, b) :: memWrite rest a v

/-! ### Addresses -/

/-- U(off) = UART_BASE + off (00_scope R8), for the seven offsets 0 to 6 of 10_state R40, named in the document's
order. -/
inductive UartReg where
  /-- Offset 0: data, or divisor low. -/
  | data
  /-- Offset 1: interrupt enable, or divisor high. -/
  | intEnable
  /-- Offset 2: interrupt identification, FIFO control. -/
  | fifoControl
  /-- Offset 3: line control. -/
  | lineControl
  /-- Offset 4: modem control. -/
  | modemControl
  /-- Offset 5: line status. -/
  | lineStatus
  /-- Offset 6: modem status. -/
  | modemStatus
  deriving DecidableEq, Repr

/-- The numeric offset (10_state R40, D5). -/
def uartOffset : UartReg → Nat
  | .data => 0
  | .intEnable => 1
  | .fifoControl => 2
  | .lineControl => 3
  | .modemControl => 4
  | .lineStatus => 5
  | .modemStatus => 6

/-- U(off), a u16 port address (00_scope R8). -/
def uartPort (p : Params) (r : UartReg) : Port := p.uartBase + BitVec.ofNat 16 (uartOffset r)

/-- The cell index of (col, row) (00_scope R9). -/
def cellIndex (p : Params) (col row : Nat) : Nat := row * p.cols + col

/-- CELL(c) = VGA_BASE + 2*c (00_scope R8): the character byte; the attribute byte is one above. -/
def cellAddr (p : Params) (c : Nat) : Nat := p.vgaBase + 2 * c

/-- The address lies in FB (10_state R31). -/
def inFb (p : Params) (a : Nat) : Bool := decide (p.vgaBase ≤ a) && decide (a < p.vgaBase + fbBytes p)

/-! ### Reading one byte -/

/-- What a byte of memory that nothing listed holds: in FB the free content reset left (10_state R31), elsewhere the
free content that is the host's (R32). -/
def unlistedByte (s : State) (a : Nat) : Byte :=
  if inFb s.params a then Config.fbAtReset s.resets a else Config.launchByte a

/-- The byte memory holds at an address: "the byte most recently written there, or the reset content if none has been
written" (20_memory R64). -/
def State.byteAt (s : State) (a : Nat) : Byte :=
  (memLookup s.mem a).getD (unlistedByte s a)

/-- The fault a text read at an address raises, if it does: ADDR_WRAP before SRC_UNMAPPED (20_memory R64,
60_exceptions R185). -/
def readFault (p : Params) (a : Nat) : Option FaultCode :=
  if 2 ^ p.addrWidth ≤ a then some .addrWrap
  else if inFb p a || isReadable p a then none
  else some .srcUnmapped

/-! ### Updates of single registers -/

/-- One more event (20_memory R77). -/
def State.record (s : State) (e : Event) : State := { s with history := e :: s.history }

/-- SEQ <- the next access. -/
def State.setSeq (s : State) (q : Seq) : State := { s with seq := q }

/-- The UART after an access. -/
def State.setUart (s : State) (u : Uart) : State := { s with uart := u }

/-- Memory after a write. -/
def State.setMem (s : State) (m : List Host.Cell) : State := { s with mem := m }

/-- The host's moves still to come. -/
def State.setHost (s : State) (h : List HostMove) : State := { s with host := h }

/-- CURSOR_X <- x; CURSOR_Y <- y (41_console R132), each a u8 (10_state R24). -/
def State.setCursor (s : State) (x y : Nat) : State :=
  { s with cursorX := BitVec.ofNat 8 x, cursorY := BitVec.ofNat 8 y }

/-! ### Fault entry, the ends of a command, reset -/

/-- Fault entry, the one operation of 60_exceptions R183: STATE, FAULT_CODE, FAULT_CMD <- CMD, SEQ <- empty;
everything else keeps its value and no event is recorded. -/
def State.enterFault (s : State) (c : FaultCode) : State :=
  { s with state := .fault, faultCode := some c, faultCmd := s.cmd, seq := .empty }

/-- The end of every command but BOOT: STATE <- IDLE (10_state R27), SEQ empty (R21). -/
def State.finish (s : State) : State := { s with state := .idle, seq := .empty }

/-- The end of BOOT: STATE <- DONE (42_boot R170), SEQ empty (10_state R21). -/
def State.finishDone (s : State) : State := { s with state := .done, seq := .empty }

/-- Reset (70_reset R210), from any STATE: the ENGINE's registers and SEQ cleared, FB's content any value (log 10),
the UART, text-source memory and the record of past accesses as they were (R211, log 19). There is no return from
FAULT but this (60_exceptions R183, R186). -/
def State.resetEngine (s : State) : State :=
  { s with
    cmd := 0x00000000#32
    ptr := 0x00000000#32
    len := 0x00000000#32
    state := .idle
    initOk := false
    txrdy := false
    faultCode := none
    cursorX := 0x00#8
    cursorY := 0x00#8
    faultCmd := 0x00000000#32
    seq := .empty
    mem := s.mem.filter (fun c => !inFb s.params c.1)
    resets := s.resets + 1 }

end Sys2Proof.Machine
end

