-- ==== Sys2Proof/Machine/Operands.lean ====
section
/-! DEFINITION. The operand forms (30_encoding R84, R88): text operands (20_memory R64) from memory at PTR and from
Rom, the count LEN, the coordinates COL and ROW. -/

namespace Sys2Proof.Machine

/-- A text operand (20_memory R64). -/
inductive TextSrc where
  /-- `Mem(p)`: bytes in MEM starting at p. -/
  | mem (p : Nat)
  /-- `Rom(s)`: an internal constant string, used only by BOOT. -/
  | rom (s : List Byte)
  deriving DecidableEq, Repr

/-- What `TextByte(src, i)` needs (20_memory R64). -/
inductive TextStep where
  /-- It raises a fault; no access is made. -/
  | raised (c : FaultCode)
  /-- It makes the access MemRead(a, 1). -/
  | bus (a : Nat)
  /-- It is a Rom byte: "no bus access, no step". -/
  | rom (b : Byte)
  deriving DecidableEq, Repr

/-- TextByte (20_memory R64): the address is exact, p + i on natural numbers; beyond its length a Rom string reads
0x00. -/
def textStep (prm : Params) (src : TextSrc) (i : Nat) : TextStep :=
  match src with
  | .mem p =>
    match readFault prm (p + i) with
    | some c => .raised c
    | none => .bus (p + i)
  | .rom str => .rom (str.getD i 0x00#8)

/-- The operand `Mem(PTR)` of SENDLINE, PRINT, PRINTAT and PANIC (10_state R28). -/
def ptrText (s : State) : TextSrc := .mem s.ptr.toNat

/-- The count LEN of SENDLINE (10_state R29). -/
def lenCount (s : State) : Nat := s.len.toNat

/-- `Rom(PANIC_MSG)` of BOOT (42_boot R172). -/
def panicText (s : State) : TextSrc := .rom s.params.panicMsg

/-- `Rom(BOOT_MSG)` of BOOT (42_boot R173). -/
def bootText (s : State) : TextSrc := .rom s.params.bootMsg

/-- The coordinate check of PrintAtBody: "col >= 80 or row >= 25" (41_console R137). -/
def coordsBad (p : Params) (col row : Nat) : Bool := decide (p.cols ≤ col) || decide (p.rows ≤ row)

end Sys2Proof.Machine
end

