-- ==== Sys2Proof/Machine/UartDevice.lean ====
section
/-! DEFINITION. The device at the other end of the port bus: the oracle's draws (20_memory R66), and the reference
16550 of 10_state R45 with its variants REF-DEAD and REF-NOECHO, which a run uses only where `mode` says so. -/

namespace Sys2Proof.Machine

/-- LCR[7], DLAB (10_state R41): offsets 0 and 1 reach the divisor latches. -/
def Uart.dlab (u : Uart) : Bool := u.lcr.getLsbD 7

/-- MCR[4], LOOP (10_state R43). -/
def Uart.loopback (u : Uart) : Bool := u.mcr.getLsbD 4

/-- LSR of the reference device (10_state R45): THRE and TEMT always, DR while a byte waits. -/
def Uart.lsr (u : Uart) : Byte := if u.rx.isEmpty then 0x60#8 else 0x61#8

/-- FEN (10_state R45): FE, bit 0 of FCR (R42). -/
def Uart.fen (u : Uart) : Bool := u.fcr.getLsbD 0

/-- What FCR keeps of a write (10_state R42): FE [0], DMS [3] and RTL [7:6]; RFR [1] and TFR [2] are self-clearing, [5:4]
are reserved (log 35). -/
def fcrKept (v : Byte) : Byte := v &&& 0xC9#8

/-- IIR of the reference device (10_state R45): none pending; bits [7:6] while the FIFOs are enabled. -/
def Uart.iir (u : Uart) : Byte := if u.fen then 0xC1#8 else 0x01#8

/-- One bit of MCR moved to a bit of MSR. -/
def modemBit (mcr : Byte) (src dst : Nat) : Byte := if mcr.getLsbD src then 1#8 <<< dst else 0#8

/-- MSR of the reference device (10_state R45, R48): in loopback DCD, RI, DSR, CTS follow OUT2, OUT1, DTR, RTS. -/
def Uart.msr (u : Uart) : Byte :=
  if u.loopback then
    modemBit u.mcr 3 7 ||| modemBit u.mcr 2 6 ||| modemBit u.mcr 0 5 ||| modemBit u.mcr 1 4
  else 0x00#8

/-- What the reference device answers to a read (10_state R45). -/
def Uart.refRead (u : Uart) : UartReg → Byte
  | .data => if u.dlab then u.dll else u.rx.headD 0x00#8
  | .intEnable => if u.dlab then u.dlm else u.ier
  | .fifoControl => u.iir
  | .lineControl => u.lcr
  | .modemControl => u.mcr
  | .lineStatus => u.lsr
  | .modemStatus => u.msr

/-- The reference device after a read: reading RBR removes the oldest byte (10_state R45). -/
def Uart.refAfterRead (u : Uart) : UartReg → Uart
  | .data => if u.dlab then u else { u with rx := u.rx.tail }
  | .intEnable => u
  | .fifoControl => u
  | .lineControl => u
  | .modemControl => u
  | .lineStatus => u
  | .modemStatus => u

/-- The receive FIFO after a looped-back byte (10_state R45): with FEN only the first 16 bytes are kept, without it
only the last. -/
def Uart.received (u : Uart) (v : Byte) : List Byte :=
  if u.fen then (u.rx ++ [v]).take 16 else [v]

/-- A THR write of the reference device (10_state R45). Outside loopback the byte is queued and, transmission being
instantaneous, the transmit FIFO is sent (R50, log 35). `echo` is false for REF-NOECHO. -/
def Uart.refTransmit (u : Uart) (echo : Bool) (v : Byte) : Uart :=
  if u.loopback then (if echo then { u with rx := u.received v } else u)
  else { u with line := u.line ++ (u.tx ++ [v]), tx := [] }

/-- The reference device after a write (10_state R45). -/
def Uart.refWrite (u : Uart) (echo : Bool) (r : UartReg) (v : Byte) : Uart :=
  match r with
  | .data => if u.dlab then { u with dll := v } else u.refTransmit echo v
  | .intEnable => if u.dlab then { u with dlm := v } else { u with ier := v &&& 0x0F#8 }
  | .fifoControl =>
    { u with
      fcr := fcrKept v
      rx := if v.getLsbD 1 then [] else u.rx
      tx := if v.getLsbD 2 then [] else u.tx }
  | .lineControl => { u with lcr := v }
  | .modemControl => { u with mcr := v &&& 0x1F#8 }
  | .lineStatus => u
  | .modemStatus => u

/-- The value PortRead(U(off)) returns (20_memory R66): the oracle's next answer, a free draw where none is listed,
or what the reference device answers. -/
def State.portAnswer (s : State) (r : UartReg) : Byte :=
  match s.uart.mode with
  | .oracle =>
    match s.uart.answers with
    | v :: _ => v
    | [] => Config.portDraw s.history (uartPort s.params r)
  | .ref => s.uart.refRead r
  | .refDead => 0xFF#8
  | .refNoEcho => s.uart.refRead r

/-- The UART after a port read. -/
def Uart.afterRead (u : Uart) (r : UartReg) : Uart :=
  match u.mode with
  | .oracle => { u with answers := u.answers.tail }
  | .ref => u.refAfterRead r
  | .refDead => u
  | .refNoEcho => u.refAfterRead r

/-- The UART after a port write. Of the oracle's device nothing is assumed: "no echo and no THRE change" (20_memory
R67). -/
def Uart.afterWrite (u : Uart) (r : UartReg) (v : Byte) : Uart :=
  match u.mode with
  | .oracle => u
  | .ref => u.refWrite true r v
  | .refDead => u
  | .refNoEcho => u.refWrite false r v

/-- DLM:DLL, the 16-bit divisor (10_state R49). -/
def Uart.divisor (u : Uart) : Nat := u.dlm.toNat * 256 + u.dll.toNat

end Sys2Proof.Machine
end

