-- ==== Sys2Proof/Machine/Bus.lean ====
section
/-! DEFINITION. One ENGINE step is one bus access (20_memory R60): the four accesses of 00_scope R8, what performing
one does, and how a command's body goes from one access to the next. -/

namespace Sys2Proof.Machine

/-- A bus access (00_scope R8). -/
inductive Access where
  /-- PortRead(U(off)). -/
  | portRead (r : UartReg)
  /-- PortWrite(U(off), v). -/
  | portWrite (r : UartReg) (v : Byte)
  /-- MemRead(a, 1). -/
  | memRead (a : Nat)
  /-- MemWrite(a, 1, v). -/
  | memWrite (a : Nat) (v : Byte)
  deriving DecidableEq, Repr

/-- What performing an access comes to. -/
inductive Performed where
  /-- It was performed; `v` is the byte a read returned (0 for a write, which returns nothing). -/
  | got (v : Byte) (s : State)
  /-- It raises a fault of the spec and is not made (20_memory R64). -/
  | raised (c : FaultCode)
  /-- The model stops. -/
  | stuck (f : Fault)

/-- The state after PortRead(U(off)): the device has answered, the event is recorded (20_memory R66, R77). -/
def State.afterPortRead (s : State) (r : UartReg) : State :=
  (s.setUart (s.uart.afterRead r)).record (.pr (uartPort s.params r) (s.portAnswer r))

/-- The state after PortWrite(U(off), v) (20_memory R67, R77). -/
def State.afterPortWrite (s : State) (r : UartReg) (v : Byte) : State :=
  (s.setUart (s.uart.afterWrite r v)).record (.pw (uartPort s.params r) v)

/-- The state after MemRead(a, 1): it has no side effect but the event (20_memory R68, R77). -/
def State.afterMemRead (s : State) (a : Nat) : State := s.record (.mr a (s.byteAt a))

/-- The state after MemWrite(a, 1, v): it "changes only the addressed FB byte" (20_memory R65, R68, R77). -/
def State.afterMemWrite (s : State) (a : Nat) (v : Byte) : State :=
  (s.setMem (memWrite s.mem a v)).record (.mw a v)

/-- Performing an access. A MemWrite outside FB is never issued (20_memory R65): the model stops on one. -/
def State.perform (s : State) : Access → Performed
  | .portRead r => .got (s.portAnswer r) (s.afterPortRead r)
  | .portWrite r v => .got 0x00#8 (s.afterPortWrite r v)
  | .memRead a =>
    match readFault s.params a with
    | some c => .raised c
    | none => .got (s.byteAt a) (s.afterMemRead a)
  | .memWrite a v =>
    if inFb s.params a then .got 0x00#8 (s.afterMemWrite a v) else .stuck .writeOutsideFb

/-- Where a body stands after an access and the computation that belongs to its step (20_memory R60). `P` is the
body's points (its accesses with their loop variables), `R` what the body returns. -/
inductive Flow (P R : Type) where
  /-- The next access the pseudocode names. -/
  | goto (p : P)
  /-- The body has ended. -/
  | ended (r : R)
  /-- `raise Fault(code)` (00_scope R8). -/
  | raised (c : FaultCode)

/-- Carries a body's flow into the state: SEQ at the next access, fault entry, or what follows the body. All of it
belongs to the step of the access before (20_memory R60, 60_exceptions R183). -/
def land {P R : Type} (place : P → Seq) (follow : R → State → State) (r : State × Flow P R) : State :=
  match r.2 with
  | .goto p => r.1.setSeq (place p)
  | .ended x => follow x r.1
  | .raised c => r.1.enterFault c

/-- One step of a body at a point: the access it names, then the computation after it. -/
def runAccess {P R : Type} (access : P → State → Option Access) (after : P → Byte → State → State × Flow P R)
    (landing : State × Flow P R → State) (p : P) (s : State) : Host.Outcome State Fault Refusal :=
  match access p s with
  | none => .fault .seqMismatch
  | some x =>
    match s.perform x with
    | .got v t => .next (landing (after p v t))
    | .raised c => .next (s.enterFault c)
    | .stuck f => .fault f

/-- The first step of a body: the computation before its first access, and that access; one step without an event
where there is none (20_memory R60). -/
def runStart {P R : Type} (access : P → State → Option Access) (after : P → Byte → State → State × Flow P R)
    (landing : State × Flow P R → State) (r : State × Flow P R) : Host.Outcome State Fault Refusal :=
  match r.2 with
  | .goto p => runAccess access after landing p r.1
  | .ended x => .next (landing (r.1, .ended x))
  | .raised c => .next (landing (r.1, .raised c))

/-- The access MemRead of byte i of a text operand; a Rom byte is no access (20_memory R64). -/
def textAccess (src : TextSrc) (i : Nat) : Option Access :=
  match src with
  | .mem p => some (.memRead (p + i))
  | .rom _ => none

end Sys2Proof.Machine
end

