-- ==== Sys2Proof/Machine/Console.lean ====
section
/-! DEFINITION. The console family (41_console): FillBody, PrintBody, PrintAtBody, and the commands CLEAR, PRINT,
PRINTAT, PANIC. -/

namespace Sys2Proof.Machine

/-! ### FillBody (R133, R136) -/

/-- The access at each point of FillBody(ch, attr) (41_console R133). -/
def fillAccess (ch attr : Byte) (p : FillPt) (s : State) : Option Access :=
  match p with
  | .char c => some (.memWrite (cellAddr s.params c) ch)
  | .attr c => some (.memWrite (cellAddr s.params c + 1) attr)

/-- What follows: the attribute after the character, then the next cell, 0 to CELLS - 1 (41_console R133). -/
def fillAfter (p : FillPt) (_ : Byte) (s : State) : State × Flow FillPt Unit :=
  match p with
  | .char c => (s, .goto (.attr c))
  | .attr c => if c + 1 < cells s.params then (s, .goto (.char (c + 1))) else (s, .ended ())

/-! ### PrintBody (R132) -/

/-- "if row == 25: row <- 0" (41_console R132). -/
def wrapRow (p : Params) (row : Nat) : Nat := if row = p.rows then 0 else row

/-- The position after a character (41_console R132): the column advances; at 80 it is reset and the row advances;
at 25 the row wraps. The result is (col, row). -/
def advance (p : Params) (col row : Nat) : Nat × Nat :=
  if col + 1 = p.cols then (0, wrapRow p (row + 1)) else (col + 1, wrapRow p row)

/-- What PrintBody does with a byte of text (41_console R132): the terminator ends it, with the unconditional row
advance; any other byte goes to the cell. -/
def printByte (i col row : Nat) (b : Byte) (s : State) : State × Flow PrintPt Unit :=
  if b = terminator then (s.setCursor 0 (wrapRow s.params (row + 1)), .ended ()) else (s, .goto (.char i col row b))

/-- TextByte of PrintBody (41_console R132). -/
def printText (src : TextSrc) (i col row : Nat) (s : State) : State × Flow PrintPt Unit :=
  match textStep s.params src i with
  | .raised c => (s, .raised c)
  | .bus _ => (s, .goto (.read i col row))
  | .rom b => printByte i col row b s

/-- The start of PrintBody: column 0 of row CURSOR_Y; CURSOR_X is not read (41_console R132, D18). -/
def printStart (src : TextSrc) (s : State) : State × Flow PrintPt Unit :=
  printText src 0 0 s.cursorY.toNat s

/-- The access at each point of PrintBody (41_console R132). -/
def printAccess (src : TextSrc) (p : PrintPt) (s : State) : Option Access :=
  match p with
  | .read i _ _ => textAccess src i
  | .char _ col row b => some (.memWrite (cellAddr s.params (cellIndex s.params col row)) b)
  | .attr _ col row => some (.memWrite (cellAddr s.params (cellIndex s.params col row) + 1) s.params.printAttr)

/-- What follows: CURSOR is updated after every character (41_console R132, D19). -/
def printAfter (src : TextSrc) (p : PrintPt) (v : Byte) (s : State) : State × Flow PrintPt Unit :=
  match p with
  | .read i col row => printByte i col row v s
  | .char i col row _ => (s, .goto (.attr i col row))
  | .attr i col row =>
    printText src (i + 1) (advance s.params col row).1 (advance s.params col row).2
      (s.setCursor (advance s.params col row).1 (advance s.params col row).2)

/-! ### PrintAtBody (R137) -/

/-- What PrintAtBody does with a byte of text (41_console R137): the terminator ends it even beyond the last cell
(60_exceptions R185); any other byte at cell 2000 or above faults before its write. -/
def printAtByte (c i : Nat) (b : Byte) (s : State) : State × Flow PrintAtPt Unit :=
  if b = terminator then (s, .ended ())
  else if cells s.params ≤ c then (s, .raised .fbOverrun)
  else (s, .goto (.char c i b))

/-- TextByte of PrintAtBody (41_console R137). -/
def printAtText (src : TextSrc) (c i : Nat) (s : State) : State × Flow PrintAtPt Unit :=
  match textStep s.params src i with
  | .raised f => (s, .raised f)
  | .bus _ => (s, .goto (.read c i))
  | .rom b => printAtByte c i b s

/-- The start of PrintAtBody: the coordinates are checked before any access (41_console R137, 60_exceptions R185). -/
def printAtStart (col row : Nat) (src : TextSrc) (s : State) : State × Flow PrintAtPt Unit :=
  if coordsBad s.params col row then (s, .raised .printatCoord) else printAtText src (cellIndex s.params col row) 0 s

/-- The access at each point of PrintAtBody: character bytes only (41_console R137). -/
def printAtAccess (src : TextSrc) (p : PrintAtPt) (s : State) : Option Access :=
  match p with
  | .read _ i => textAccess src i
  | .char c _ b => some (.memWrite (cellAddr s.params c) b)

/-- What follows: the column advances linearly through the cell index (41_console R137). -/
def printAtAfter (src : TextSrc) (p : PrintAtPt) (v : Byte) (s : State) : State × Flow PrintAtPt Unit :=
  match p with
  | .read c i => printAtByte c i v s
  | .char c i _ => printAtText src (c + 1) (i + 1) s

/-! ### The commands -/

/-- CLEAR's place in SEQ and its end. -/
def clearLand (r : State × Flow FillPt Unit) : State := land .clear (fun _ t => t.finish) r

/-- CLEAR (41_console R130): ClearBody is FillBody(0x00, 0x00) (R136). -/
def execClear (s : State) : Host.Outcome State Fault Refusal :=
  match s.seq with
  | .empty => runAccess (fillAccess 0x00#8 0x00#8) fillAfter clearLand (.char 0) s
  | .clear p => runAccess (fillAccess 0x00#8 0x00#8) fillAfter clearLand p s
  | _ => .fault .seqMismatch

/-- PRINT's place in SEQ and its end. -/
def printLand (r : State × Flow PrintPt Unit) : State := land .print (fun _ t => t.finish) r

/-- PRINT (41_console R131): PrintBody(Mem(PTR)). -/
def execPrint (s : State) : Host.Outcome State Fault Refusal :=
  match s.seq with
  | .empty => runStart (printAccess (ptrText s)) (printAfter (ptrText s)) printLand (printStart (ptrText s) s)
  | .print p => runAccess (printAccess (ptrText s)) (printAfter (ptrText s)) printLand p s
  | _ => .fault .seqMismatch

/-- PRINTAT's place in SEQ and its end. -/
def printatLand (r : State × Flow PrintAtPt Unit) : State := land .printat (fun _ t => t.finish) r

/-- PRINTAT (41_console R134): PrintAtBody(COL, ROW, Mem(PTR)). -/
def execPrintat (col row : Byte) (s : State) : Host.Outcome State Fault Refusal :=
  match s.seq with
  | .empty =>
    runStart (printAtAccess (ptrText s)) (printAtAfter (ptrText s)) printatLand
      (printAtStart col.toNat row.toNat (ptrText s) s)
  | .printat p => runAccess (printAtAccess (ptrText s)) (printAtAfter (ptrText s)) printatLand p s
  | _ => .fault .seqMismatch

/-- PANIC's place in SEQ in its message, and its end: no halt (41_console R138, D42). -/
def panicMsgLand (r : State × Flow PrintAtPt Unit) : State := land .panicMsg (fun _ t => t.finish) r

/-- PANIC's place in SEQ in its fill; then the message at (PANIC_COL, PANIC_ROW) (41_console R138). -/
def panicFillLand (r : State × Flow FillPt Unit) : State :=
  land .panicFill (fun _ t => panicMsgLand (printAtStart t.params.panicCol t.params.panicRow (ptrText t) t)) r

/-- PANIC (41_console R135): PanicBody(Mem(PTR)) (R138). -/
def execPanic (s : State) : Host.Outcome State Fault Refusal :=
  match s.seq with
  | .empty =>
    runAccess (fillAccess s.params.panicFillChar s.params.panicAttr) fillAfter panicFillLand (.char 0) s
  | .panicFill p => runAccess (fillAccess s.params.panicFillChar s.params.panicAttr) fillAfter panicFillLand p s
  | .panicMsg p => runAccess (printAtAccess (ptrText s)) (printAtAfter (ptrText s)) panicMsgLand p s
  | _ => .fault .seqMismatch

end Sys2Proof.Machine
end

