-- ==== Sys2Proof/Machine/Flags.lean ====
section
/-! DEFINITION. The STATUS fields, who writes them and how they read (10_state R23, R24, R30). -/

namespace Sys2Proof.Machine

/-- STATUS.INIT_OK <- ok (40_uart R100, 42_boot R170). -/
def State.setInitOk (s : State) (ok : Bool) : State := { s with initOk := ok }

/-- STATUS.TXRDY <- b (40_uart R101). -/
def State.setTxrdy (s : State) (b : Bool) : State := { s with txrdy := b }

/-- `(v & THRE_MASK) != 0` (40_uart R101, R104). -/
def threSet (p : Params) (v : Byte) : Bool := (v &&& p.threMask) != 0x00#8

/-- `v == TEST_BYTE`, all eight bits (40_uart R103, D16). -/
def echoMatches (p : Params) (v : Byte) : Bool := v == p.testByte

/-- The 2-bit encoding of STATE (10_state R23). -/
def stateCode : EngState → Word
  | .idle => 0#32
  | .busy => 1#32
  | .done => 2#32
  | .fault => 3#32

/-- The 8-bit FAULT_CODE (60_exceptions R182). -/
def faultCodeByte : Option FaultCode → Byte
  | none => 0x00#8
  | some .illegalCmd => 0x01#8
  | some .printatCoord => 0x02#8
  | some .fbOverrun => 0x03#8
  | some .srcUnmapped => 0x04#8
  | some .addrWrap => 0x05#8

/-- A one-bit field. -/
def bitWord (b : Bool) : Word := if b then 1#32 else 0#32

/-- STATUS as the host reads it (10_state R23): STATE [1:0], INIT_OK [2], TXRDY [3], FAULT_CODE [15:8], the rest 0. -/
def State.statusWord (s : State) : Word :=
  stateCode s.state ||| (bitWord s.initOk <<< 2) ||| (bitWord s.txrdy <<< 3)
    ||| ((faultCodeByte s.faultCode).setWidth 32 <<< 8)

/-- CURSOR as the host reads it (10_state R24): CURSOR_X [7:0], CURSOR_Y [15:8], the rest 0. -/
def State.cursorWord (s : State) : Word :=
  s.cursorX.setWidth 32 ||| (s.cursorY.setWidth 32 <<< 8)

end Sys2Proof.Machine
end

