-- ==== Sys2Proof/Machine/UartCommands.lean ====
section
/-! DEFINITION. The UART family (40_uart): InitBody, WaitTx, SendBody, and the commands INIT, TXRDY, SENDLINE. -/

namespace Sys2Proof.Machine

/-! ### InitBody (R103) -/

/-- The access at each point of InitBody (40_uart R103). -/
def initAccess (p : InitPt) (s : State) : Option Access :=
  match p with
  | .ier => some (.portWrite .intEnable s.params.ierOff)
  | .lcrDlab => some (.portWrite .lineControl s.params.lcrDlab)
  | .dll => some (.portWrite .data (divisorLow s.params))
  | .dlm => some (.portWrite .intEnable (divisorHigh s.params))
  | .lcr8n1 => some (.portWrite .lineControl s.params.lcr8n1)
  | .fcr => some (.portWrite .fifoControl s.params.fcrInit)
  | .mcrNormal => some (.portWrite .modemControl s.params.mcrNormal)
  | .mcrLoop => some (.portWrite .modemControl s.params.mcrLoop)
  | .thr => some (.portWrite .data s.params.testByte)
  | .rbr => some (.portRead .data)
  | .mcrFinal => some (.portWrite .modemControl s.params.mcrFinal)

/-- What follows each access of InitBody (40_uart R103): the next one; after the readback, failure "without disabling
loopback" unless all eight bits match; success after step 9. -/
def initAfter (p : InitPt) (v : Byte) (s : State) : State × Flow InitPt Bool :=
  match p with
  | .ier => (s, .goto .lcrDlab)
  | .lcrDlab => (s, .goto .dll)
  | .dll => (s, .goto .dlm)
  | .dlm => (s, .goto .lcr8n1)
  | .lcr8n1 => (s, .goto .fcr)
  | .fcr => (s, .goto .mcrNormal)
  | .mcrNormal => (s, .goto .mcrLoop)
  | .mcrLoop => (s, .goto .thr)
  | .thr => (s, .goto .rbr)
  | .rbr => if echoMatches s.params v then (s, .goto .mcrFinal) else (s, .ended false)
  | .mcrFinal => (s, .ended true)

/-! ### WaitTx and SendBody (R104, R105) -/

/-- The access at each point of SendBody (40_uart R104, R105). -/
def sendAccess (src : TextSrc) (p : SendPt) (s : State) : Option Access :=
  match p with
  | .poll _ => some (.portRead .lineStatus)
  | .read i => textAccess src i
  | .write _ b => some (.portWrite .data b)
  | .pollCr => some (.portRead .lineStatus)
  | .writeCr => some (.portWrite .data s.params.carriageReturn)
  | .pollLf => some (.portRead .lineStatus)
  | .writeLf => some (.portWrite .data s.params.lineFeed)

/-- The head of SendBody's loop: byte i while i < n, then CR LF (40_uart R105). -/
def sendLoop (n i : Nat) (s : State) : State × Flow SendPt Unit :=
  if i < n then (s, .goto (.poll i)) else (s, .goto .pollCr)

/-- TextByte of SendBody, after the poll of its byte (40_uart R105, D26). -/
def sendText (src : TextSrc) (i : Nat) (s : State) : State × Flow SendPt Unit :=
  match textStep s.params src i with
  | .raised c => (s, .raised c)
  | .bus _ => (s, .goto (.read i))
  | .rom b => (s, .goto (.write i b))

/-- What follows each access of SendBody: WaitTx repeats its read until THRE, with no bound (40_uart R104, 70_reset
R214). -/
def sendAfter (src : TextSrc) (n : Nat) (p : SendPt) (v : Byte) (s : State) : State × Flow SendPt Unit :=
  match p with
  | .poll i => if threSet s.params v then sendText src i s else (s, .goto (.poll i))
  | .read i => (s, .goto (.write i v))
  | .write i _ => sendLoop n (i + 1) s
  | .pollCr => if threSet s.params v then (s, .goto .writeCr) else (s, .goto .pollCr)
  | .writeCr => (s, .goto .pollLf)
  | .pollLf => if threSet s.params v then (s, .goto .writeLf) else (s, .goto .pollLf)
  | .writeLf => (s, .ended ())

/-! ### The commands -/

/-- After InitBody, INIT records its result and ends: the self-test failure is a result, not a fault (40_uart R100,
60_exceptions R181). -/
def initLand (r : State × Flow InitPt Bool) : State :=
  land .init (fun ok t => (t.setInitOk ok).finish) r

/-- INIT (40_uart R100). -/
def execInit (s : State) : Host.Outcome State Fault Refusal :=
  match s.seq with
  | .empty => runAccess initAccess initAfter initLand .ier s
  | .init p => runAccess initAccess initAfter initLand p s
  | _ => .fault .seqMismatch

/-- TXRDY's one access (40_uart R101). -/
def txrdyAccess (_ : Unit) (_ : State) : Option Access := some (.portRead .lineStatus)

/-- TXRDY's result (40_uart R101). -/
def txrdyAfter (_ : Unit) (v : Byte) (s : State) : State × Flow Unit Unit :=
  (s.setTxrdy (threSet s.params v), .ended ())

/-- TXRDY ends with its one access. -/
def txrdyLand (r : State × Flow Unit Unit) : State := land (fun _ => .empty) (fun _ t => t.finish) r

/-- TXRDY (40_uart R101). -/
def execTxrdy (s : State) : Host.Outcome State Fault Refusal :=
  match s.seq with
  | .empty => runAccess txrdyAccess txrdyAfter txrdyLand () s
  | _ => .fault .seqMismatch

/-- SENDLINE's place in SEQ and its end. -/
def sendlineLand (r : State × Flow SendPt Unit) : State := land .sendline (fun _ t => t.finish) r

/-- SENDLINE (40_uart R102): SendBody(Mem(PTR), LEN). -/
def execSendline (s : State) : Host.Outcome State Fault Refusal :=
  match s.seq with
  | .empty =>
    runStart (sendAccess (ptrText s)) (sendAfter (ptrText s) (lenCount s)) sendlineLand (sendLoop (lenCount s) 0 s)
  | .sendline p => runAccess (sendAccess (ptrText s)) (sendAfter (ptrText s) (lenCount s)) sendlineLand p s
  | _ => .fault .seqMismatch

end Sys2Proof.Machine
end

