-- ==== Sys2Proof/Machine/Boot.lean ====
section
/-! DEFINITION. BOOT (42_boot R170): ClearBody, InitBody, PanicBody on failure, PrintBody and SendBody of BOOT_MSG,
each phase entered in the step of the last access before it (20_memory R60). The definitions stand last phase first. -/

namespace Sys2Proof.Machine

/-- SendBody(Rom(BOOT_MSG), len(BOOT_MSG)), then DONE (42_boot R170, R171). -/
def bootSendLand (r : State × Flow SendPt Unit) : State := land .bootSend (fun _ t => t.finishDone) r

/-- PrintBody(Rom(BOOT_MSG)), then SendBody (42_boot R170). -/
def bootPrintLand (r : State × Flow PrintPt Unit) : State :=
  land .bootPrint (fun _ t => bootSendLand (sendLoop t.params.bootMsg.length 0 t)) r

/-- The PrintAtBody of PanicBody(Rom(PANIC_MSG)), then PrintBody: "execution continues past the failure" (42_boot
R170 a). -/
def bootMsgLand (r : State × Flow PrintAtPt Unit) : State :=
  land .bootMsg (fun _ t => bootPrintLand (printStart (bootText t) t)) r

/-- The FillBody of PanicBody, then its PrintAtBody (41_console R138). -/
def bootFillLand (r : State × Flow FillPt Unit) : State :=
  land .bootFill (fun _ t => bootMsgLand (printAtStart t.params.panicCol t.params.panicRow (panicText t) t)) r

/-- After InitBody: INIT_OK, then PanicBody on failure, PrintBody otherwise (42_boot R170). BOOT branches on the
result itself, not on the field (10_state R30). -/
def bootInitLand (r : State × Flow InitPt Bool) : State :=
  land .bootInit
    (fun ok t =>
      if ok then bootPrintLand (printStart (bootText t) (t.setInitOk ok))
      else (t.setInitOk ok).setSeq (.bootFill (.char 0)))
    r

/-- ClearBody, then InitBody (42_boot R170). -/
def bootClearLand (r : State × Flow FillPt Unit) : State :=
  land .bootClear (fun _ t => t.setSeq (.bootInit .ier)) r

/-- BOOT (42_boot R170). -/
def execBoot (s : State) : Host.Outcome State Fault Refusal :=
  match s.seq with
  | .empty => runAccess (fillAccess 0x00#8 0x00#8) fillAfter bootClearLand (.char 0) s
  | .bootClear p => runAccess (fillAccess 0x00#8 0x00#8) fillAfter bootClearLand p s
  | .bootInit p => runAccess initAccess initAfter bootInitLand p s
  | .bootFill p => runAccess (fillAccess s.params.panicFillChar s.params.panicAttr) fillAfter bootFillLand p s
  | .bootMsg p => runAccess (printAtAccess (panicText s)) (printAtAfter (panicText s)) bootMsgLand p s
  | .bootPrint p => runAccess (printAccess (bootText s)) (printAfter (bootText s)) bootPrintLand p s
  | .bootSend p =>
    runAccess (sendAccess (bootText s)) (sendAfter (bootText s) s.params.bootMsg.length) bootSendLand p s
  | _ => .fault .seqMismatch

end Sys2Proof.Machine
end

