-- ==== Sys2Proof/Machine/Dispatch.lean ====
section
/-! DEFINITION. exec: one ENGINE step of each command (30_encoding R82, 20_memory R60). -/

namespace Sys2Proof.Machine

-- One arm a command; each calls its meaning: the command's next bus access and what belongs to its step.
def exec (i : Instr) (s : State) : Host.Outcome State Fault Refusal :=
  match i with
  | .init => Sys2Proof.Machine.execInit s
  | .txrdy => Sys2Proof.Machine.execTxrdy s
  | .sendline => Sys2Proof.Machine.execSendline s
  | .clear => Sys2Proof.Machine.execClear s
  | .print => Sys2Proof.Machine.execPrint s
  | .printat col row => Sys2Proof.Machine.execPrintat col row s
  | .panic => Sys2Proof.Machine.execPanic s
  | .boot => Sys2Proof.Machine.execBoot s

end Sys2Proof.Machine
end

