-- ==== Sys2Proof/Machine/HostPort.lean ====
section
/-! DEFINITION. The host's side (10_state R22, R27; 70_reset R225): the register window, what each host move does, and
the command lines of 30_encoding R87 as the moves they stand for. -/

namespace Sys2Proof.Machine

/-- A register of the host's window (10_state R22). -/
inductive HostReg where
  | cmd | ptr | len | status | cursor | faultCmd | reserved
  deriving DecidableEq, Repr

/-- The register at an offset of the window; 0x18 and above are reserved (10_state R22). -/
def hostRegAt (off : Nat) : HostReg :=
  if off = 0x00 then .cmd
  else if off = 0x04 then .ptr
  else if off = 0x08 then .len
  else if off = 0x0C then .status
  else if off = 0x10 then .cursor
  else if off = 0x14 then .faultCmd
  else .reserved

/-- What an address of the host is in the register window (10_state R22). -/
inductive HostPlace where
  /-- Below the window's base: no register of this block. -/
  | outside
  /-- In the window, at an offset that is not 32-bit aligned: no such access. -/
  | misaligned
  /-- A register. -/
  | reg (r : HostReg)
  deriving DecidableEq, Repr

/-- Where a host access at an address goes: to the register at its offset from the window's base (10_state R22, 93
I28). -/
def hostPlace (p : Params) (addr : Nat) : HostPlace :=
  if addr < p.hostBase then .outside
  else if (addr - p.hostBase) % 4 = 0 then .reg (hostRegAt (addr - p.hostBase))
  else .misaligned

/-- What a host read of a register returns (10_state R22): reserved offsets read 0. -/
def hostRegRead (s : State) : HostReg → Word
  | .cmd => s.cmd
  | .ptr => s.ptr
  | .len => s.len
  | .status => s.statusWord
  | .cursor => s.cursorWord
  | .faultCmd => s.faultCmd
  | .reserved => 0x00000000#32

/-- The host's write of CMD (10_state R27): only in IDLE; CMD <- w, STATE <- BUSY. -/
def hostWriteCmd (s : State) (w : Word) : Host.Outcome State Fault Refusal :=
  match s.state with
  | .idle => .next { s with cmd := w, state := .busy }
  | .busy => .fault .hostWriteWhileBusy
  | .done => .fault .hostWriteWhenStopped
  | .fault => .fault .hostWriteWhenStopped

/-- A host write of an operand register lands in IDLE and in no other STATE: "The host writes CMD, PTR and LEN only while
IDLE" (92 D28), "PTR, LEN, then CMD, written while STATE = IDLE" (70_reset R225). DESIGN CHOICE (log 34) for DONE and
FAULT, where R225's duties and 93 I23 bar CMD alone. -/
def hostOperandWrite (s : State) (t : State) : Host.Outcome State Fault Refusal :=
  match s.state with
  | .idle => .next t
  | .busy => .fault .hostWriteWhileBusy
  | .done => .fault .hostWriteWhenStopped
  | .fault => .fault .hostWriteWhenStopped

/-- The host's write of PTR: only in IDLE (92 D28; DESIGN CHOICE in DONE and FAULT, log 34). -/
def hostWritePtr (s : State) (v : Word) : Host.Outcome State Fault Refusal :=
  hostOperandWrite s { s with ptr := v }

/-- The host's write of LEN: only in IDLE (92 D28; DESIGN CHOICE in DONE and FAULT, log 34). -/
def hostWriteLen (s : State) (v : Word) : Host.Outcome State Fault Refusal :=
  hostOperandWrite s { s with len := v }

/-- A host write to a register: one to a read-only register or a reserved offset has no effect, in any STATE (10_state
R22; while BUSY the model's choice, log 34). -/
def hostRegWrite (s : State) (r : HostReg) (v : Word) : Host.Outcome State Fault Refusal :=
  match r with
  | .cmd => hostWriteCmd s v
  | .ptr => hostWritePtr s v
  | .len => hostWriteLen s v
  | .status => .next s
  | .cursor => .next s
  | .faultCmd => .next s
  | .reserved => .next s

/-- A byte the host may supply: text-source memory is "every memory byte outside FB that READABLE admits" (10_state
R32), inside the address space (20_memory R61). -/
def isTextMemory (p : Params) (a : Nat) : Bool :=
  decide (a < 2 ^ p.addrWidth) && !inFb p a && isReadable p a

/-- The host supplies a byte of text, not while a command runs (10_state R32, 70_reset R225). -/
def hostSupply (s : State) (a : Nat) (b : Byte) : Host.Outcome State Fault Refusal :=
  if s.state = .busy then .fault .hostSupplyWhileBusy
  else if isTextMemory s.params a then .next (s.setMem (memWrite s.mem a b))
  else .fault .hostSupplyNoMemory

/-- What the host may read while a command runs: STATUS and CURSOR (70_reset R225, "may touch while it runs"). -/
def readableWhileBusy : HostReg → Bool
  | .cmd => false
  | .ptr => false
  | .len => false
  | .status => true
  | .cursor => true
  | .faultCmd => false
  | .reserved => false

/-- The host's read of a register: the value goes to the host, nothing else changes (10_state R22, log 6). While BUSY the
ENGINE grants STATUS and CURSOR only; another read is refused (70_reset R225, log 34). -/
def hostReadReg (s : State) (r : HostReg) : Host.Outcome State Fault Refusal :=
  if s.state = .busy ∧ readableWhileBusy r = false then .refused .hostReadWhileBusy
  else .next { s with seen := hostRegRead s r :: s.seen }

/-- The host's read at an address. -/
def hostRead (s : State) (addr : Nat) : Host.Outcome State Fault Refusal :=
  match hostPlace s.params addr with
  | .reg r => hostReadReg s r
  | .outside => .fault .hostOutsideWindow
  | .misaligned => .fault .hostMisaligned

/-- The host's write at an address. -/
def hostWrite (s : State) (addr : Nat) (v : Word) : Host.Outcome State Fault Refusal :=
  match hostPlace s.params addr with
  | .reg r => hostRegWrite s r v
  | .outside => .fault .hostOutsideWindow
  | .misaligned => .fault .hostMisaligned

/-! ### Command lines (30_encoding R87) -/

/-- One line of a program (30_encoding R87). -/
inductive Line where
  | init
  | txrdy
  | sendline (ptr len : Word)
  | clear
  | print (ptr : Word)
  | printat (col row : Byte) (ptr : Word)
  | panic (ptr : Word)
  | boot
  /-- `.bytes b0, b1, ... @ addr`. -/
  | bytes (data : List Byte) (addr : Nat)
  /-- `.asciz "<text>" @ addr`: the bytes of text, then 0x00. -/
  | asciz (text : List Byte) (addr : Nat)
  deriving DecidableEq, Repr

/-- The bytes from an address on, one supply move each. -/
def supplyMoves : List Byte → Nat → List HostMove
  | [], _ => []
  | b :: rest, a => .supply a b :: supplyMoves rest (a + 1)

/-- A host write to the register at an offset of the window. -/
def regWrite (p : Params) (off : Nat) (v : Word) : HostMove := .write (p.hostBase + off) v

/-- A CMD write and the wait until STATE != BUSY that ends every command line (30_encoding R87). -/
def startMoves (p : Params) (i : Instr) : List HostMove := [regWrite p 0x00 (encode i), .await]

/-- The host moves a line stands for: PTR, then LEN, then CMD, then the wait; a data directive describes LaunchMem
(30_encoding R87). -/
def lineMoves (p : Params) : Line → List HostMove
  | .init => startMoves p .init
  | .txrdy => startMoves p .txrdy
  | .sendline ptr len => regWrite p 0x04 ptr :: regWrite p 0x08 len :: startMoves p .sendline
  | .clear => startMoves p .clear
  | .print ptr => regWrite p 0x04 ptr :: startMoves p .print
  | .printat col row ptr => regWrite p 0x04 ptr :: startMoves p (.printat col row)
  | .panic ptr => regWrite p 0x04 ptr :: startMoves p .panic
  | .boot => startMoves p .boot
  | .bytes data a => supplyMoves data a
  | .asciz text a => supplyMoves (text ++ [0x00#8]) a

end Sys2Proof.Machine
end

