-- ==== Sys2Proof/Machine/Engine.lean ====
section
/-! DEFINITION. What the step calls: the ENGINE's step on the command in CMD, and the host's next move. -/

namespace Sys2Proof.Machine

/-- The ENGINE's step while BUSY: it decodes CMD (10_state R27) and makes the command's next access; an illegal word
faults ILLEGAL_CMD before any access, in one step (30_encoding R83, 20_memory R60). -/
def engineBusy (s : State) : Host.Outcome State Fault Refusal :=
  match decode s.cmd with
  | .command i => exec i s
  | .illegal _ => .next (s.enterFault .illegalCmd)

/-- The ENGINE's step: it steps only while BUSY; otherwise the run has ended, since the host has no move left
(60_exceptions R190). -/
def engineStep (s : State) : Host.Outcome State Fault Refusal :=
  match s.state with
  | .busy => engineBusy s
  | .idle => .fault .idleRunEnded
  | .done => .fault .doneRunEnded
  | .fault => .fault .faultRunEnded

/-- The wait of 30_encoding R87: the ENGINE steps while STATE = BUSY; then the wait is over. -/
def hostAwait (s : State) (rest : List HostMove) : Host.Outcome State Fault Refusal :=
  if s.state = .busy then engineBusy s else .next (s.setHost rest)

/-- One ENGINE step, if a command runs, before the host's next move lands. -/
def hostLetRun (s : State) (rest : List HostMove) : Host.Outcome State Fault Refusal :=
  if s.state = .busy then engineBusy (s.setHost rest) else .next (s.setHost rest)

/-- The host's move `m`, with `rest` still to come (70_reset R225). -/
def hostMove (s : State) (m : HostMove) (rest : List HostMove) : Host.Outcome State Fault Refusal :=
  match m with
  | .write addr v => hostWrite (s.setHost rest) addr v
  | .read addr => hostRead (s.setHost rest) addr
  | .supply a b => hostSupply (s.setHost rest) a b
  | .await => hostAwait s rest
  | .letRun => hostLetRun s rest
  | .reset => .next ((s.setHost rest).resetEngine)

/-- The step of the block and its host: the host's next move, or the ENGINE's step where no move is left (log 3). -/
def systemStep (s : State) : Host.Outcome State Fault Refusal :=
  match s.host with
  | [] => engineStep s
  | m :: rest => hostMove s m rest

/-- The state in which the host has just written a command word: CMD <- w, STATE <- BUSY, no command under way, no host
move before the ENGINE's step (10_state R27, log 32). -/
def placeCommand (s : State) (w : Word) : State :=
  { s with cmd := w, state := .busy, seq := .empty, host := [] }

end Sys2Proof.Machine
end

