-- ==== Sys2Proof/Machine/Step.lean ====
section
/-! DEFINITION. The step of the machine (20_memory R60: one bus access a step), and the placing of a command where the
next step runs it. -/

namespace Sys2Proof.Machine

/-- One step: the host's next move, or one bus access of the command under way. -/
def step (s : State) : Host.Outcome State Fault Refusal := systemStep s

/-- `s` with a table word as the command the next step starts: the host's CMD write in IDLE (10_state R27, log 32). -/
def State.withFetchWord (s : State) (nbits w : Nat) : State := placeCommand s (tableWord nbits w)

end Sys2Proof.Machine
end

