-- ==== Sys2Proof/Safety.lean ====
section
/-! DEFINITION. The terms the claims use: several steps in a row, the access a step makes and the byte it stores to,
the parameters' constraints, and the invariant of the block. -/

namespace Sys2Proof.Machine

/-! ### Steps in a row -/

/-- k steps, stopping at the first stop. -/
def stepN : Nat → State → Host.Outcome State Fault Refusal
  | 0, s => .next s
  | k + 1, s =>
    match step s with
    | .next t => stepN k t
    | .fault f => .fault f
    | .refused r => .refused r

/-- A command has just been started and the host makes no further move: STATE = BUSY, SEQ empty (10_state R27). -/
def Started (s : State) (i : Instr) : Prop :=
  s.state = .busy ∧ s.seq = .empty ∧ s.host = [] ∧ decode s.cmd = .command i

/-! ### The access a step makes -/

/-- The first access of a body, where it has one. -/
def firstAccess {P R : Type} (access : P → State → Option Access) (r : State × Flow P R) : Option Access :=
  match r.2 with
  | .goto p => access p r.1
  | .ended _ => none
  | .raised _ => none

/-- The access of a step of INIT. -/
def initNext (s : State) : Option Access :=
  match s.seq with
  | .empty => initAccess .ier s
  | .init p => initAccess p s
  | _ => none

/-- The access of a step of TXRDY. -/
def txrdyNext (s : State) : Option Access :=
  match s.seq with
  | .empty => txrdyAccess () s
  | _ => none

/-- The access of a step of SENDLINE. -/
def sendlineNext (s : State) : Option Access :=
  match s.seq with
  | .empty => firstAccess (sendAccess (ptrText s)) (sendLoop (lenCount s) 0 s)
  | .sendline p => sendAccess (ptrText s) p s
  | _ => none

/-- The access of a step of CLEAR. -/
def clearNext (s : State) : Option Access :=
  match s.seq with
  | .empty => fillAccess 0x00#8 0x00#8 (.char 0) s
  | .clear p => fillAccess 0x00#8 0x00#8 p s
  | _ => none

/-- The access of a step of PRINT. -/
def printNext (s : State) : Option Access :=
  match s.seq with
  | .empty => firstAccess (printAccess (ptrText s)) (printStart (ptrText s) s)
  | .print p => printAccess (ptrText s) p s
  | _ => none

/-- The access of a step of PRINTAT. -/
def printatNext (col row : Byte) (s : State) : Option Access :=
  match s.seq with
  | .empty => firstAccess (printAtAccess (ptrText s)) (printAtStart col.toNat row.toNat (ptrText s) s)
  | .printat p => printAtAccess (ptrText s) p s
  | _ => none

/-- The access of a step of PANIC. -/
def panicNext (s : State) : Option Access :=
  match s.seq with
  | .empty => fillAccess s.params.panicFillChar s.params.panicAttr (.char 0) s
  | .panicFill p => fillAccess s.params.panicFillChar s.params.panicAttr p s
  | .panicMsg p => printAtAccess (ptrText s) p s
  | _ => none

/-- The access of a step of BOOT. -/
def bootNext (s : State) : Option Access :=
  match s.seq with
  | .empty => fillAccess 0x00#8 0x00#8 (.char 0) s
  | .bootClear p => fillAccess 0x00#8 0x00#8 p s
  | .bootInit p => initAccess p s
  | .bootFill p => fillAccess s.params.panicFillChar s.params.panicAttr p s
  | .bootMsg p => printAtAccess (panicText s) p s
  | .bootPrint p => printAccess (bootText s) p s
  | .bootSend p => sendAccess (bootText s) p s
  | _ => none

/-- The one bus access (20_memory R60) that `exec i s` makes: the functions its meaning uses, at the point SEQ
names. -/
def nextAccess (i : Instr) (s : State) : Option Access :=
  match i with
  | .init => initNext s
  | .txrdy => txrdyNext s
  | .sendline => sendlineNext s
  | .clear => clearNext s
  | .print => printNext s
  | .printat col row => printatNext col row s
  | .panic => panicNext s
  | .boot => bootNext s

/-- The address a step of a command stores to, if it stores. -/
def storedAddr (i : Instr) (s : State) : Option Nat :=
  match nextAccess i s with
  | some (.memWrite a _) => some a
  | some (.memRead _) => none
  | some (.portRead _) => none
  | some (.portWrite _ _) => none
  | none => none

/-- The event an access records (20_memory R77), with the byte the state answers to a read. -/
def eventOf (s : State) : Access → Event
  | .portRead r => .pr (uartPort s.params r) (s.portAnswer r)
  | .portWrite r v => .pw (uartPort s.params r) v
  | .memRead a => .mr a (s.byteAt a)
  | .memWrite a v => .mw a v

/-- The most recent port access of a history (20_memory R77). -/
def lastPortEvent : List Event → Option Event
  | [] => none
  | .pr p v :: _ => some (.pr p v)
  | .pw p v :: _ => some (.pw p v)
  | .mr _ _ :: rest => lastPortEvent rest
  | .mw _ _ :: rest => lastPortEvent rest

/-! ### Text operands of claims -/

/-- The bytes of `txt` stand in text-source memory from address p on: inside MEM, outside FB, READABLE (10_state
R32). -/
def TextAt (s : State) (p : Nat) (txt : List Byte) : Prop :=
  ∀ i, i < txt.length →
    p + i < 2 ^ s.params.addrWidth ∧ inFb s.params (p + i) = false ∧ isReadable s.params (p + i) = true ∧
      s.byteAt (p + i) = txt.getD i 0x00#8

/-- `txt` and then the terminator stand in text-source memory from PTR on, and no byte of `txt` is the terminator. -/
def TerminatedTextAt (s : State) (txt : List Byte) : Prop :=
  TextAt s s.ptr.toNat (txt ++ [terminator]) ∧ ∀ b ∈ txt, b ≠ terminator

/-! ### Events of whole commands -/

/-- A text read at an address makes its access: inside MEM, and in FB or READABLE (20_memory R64). -/
def Admitted (s : State) (a : Nat) : Prop :=
  a < 2 ^ s.params.addrWidth ∧ (inFb s.params a = true ∨ isReadable s.params a = true)

/-- The nine port writes of InitBody up to and including the test byte, in order (40_uart R103, R107). -/
def initWrites (p : Params) : List Event :=
  [.pw (p.uartBase + 1#16) p.ierOff, .pw (p.uartBase + 3#16) p.lcrDlab, .pw (p.uartBase + 0#16) (divisorLow p),
   .pw (p.uartBase + 1#16) (divisorHigh p), .pw (p.uartBase + 3#16) p.lcr8n1, .pw (p.uartBase + 2#16) p.fcrInit,
   .pw (p.uartBase + 4#16) p.mcrNormal, .pw (p.uartBase + 4#16) p.mcrLoop, .pw (p.uartBase + 0#16) p.testByte]

/-- From s to t the divisor was programmed: its low byte written at offset 0, then its high byte at offset 1, not both 0;
the latches of a reference device with DLAB set hold it and the rate follows (10_state R49, 40_uart R106). -/
def ProgramsDivisor (s t : State) : Prop :=
  t.history = .pw (s.params.uartBase + 1#16) (divisorHigh s.params)
      :: .pw (s.params.uartBase + 0#16) (divisorLow s.params) :: s.history ∧
    divisorHigh s.params ++ divisorLow s.params ≠ 0x0000#16 ∧
    (s.uart.mode = .ref ∨ s.uart.mode = .refNoEcho → s.uart.dlab = true →
      t.uart.divisor = s.params.divisor.bits.toNat ∧ 1 ≤ t.uart.divisor ∧
      baudRate s.params t.uart.divisor = some (s.params.baseClock / t.uart.divisor))

/-- The events of SendBody(Mem(a), len txt) where poll j answers `ready j` and sees THRE at once (40_uart R105). -/
def sendEvents (p : Params) (a : Nat) (txt : List Byte) (ready : Nat → Byte) : List Event :=
  (List.range txt.length).flatMap (fun j =>
      [.pr (p.uartBase + 5#16) (ready j), .mr (a + j) (txt.getD j 0x00#8),
       .pw (p.uartBase + 0#16) (txt.getD j 0x00#8)])
    ++ [.pr (p.uartBase + 5#16) (ready txt.length), .pw (p.uartBase + 0#16) p.carriageReturn,
        .pr (p.uartBase + 5#16) (ready (txt.length + 1)), .pw (p.uartBase + 0#16) p.lineFeed]

/-- The FB_BYTES events of FillBody(ch, attr), in ascending address order (41_console R133). -/
def fillEvents (p : Params) (ch attr : Byte) : List Event :=
  (List.range (cells p)).flatMap (fun c => [.mw (p.vgaBase + 2 * c) ch, .mw (p.vgaBase + 2 * c + 1) attr])

/-- The cell at which PrintBody, started on row y, writes its character j: (y*80 + j) mod 2000 under R6's literals
(41_console R141). -/
def printCell (p : Params) (y j : Nat) : Nat := (y * p.cols + j) % cells p

/-- The events of PrintBody(Mem(a)) on the text txt from row y (41_console R132, R141). -/
def printEvents (p : Params) (a y : Nat) (txt : List Byte) : List Event :=
  (List.range txt.length).flatMap (fun j =>
      [.mr (a + j) (txt.getD j 0x00#8), .mw (p.vgaBase + 2 * printCell p y j) (txt.getD j 0x00#8),
       .mw (p.vgaBase + 2 * printCell p y j + 1) p.printAttr])
    ++ [.mr (a + txt.length) 0x00#8]

/-- The events of PrintAtBody from cell c on the text txt at a (41_console R137). -/
def printAtEvents (p : Params) (a c : Nat) (txt : List Byte) : List Event :=
  (List.range txt.length).flatMap (fun j =>
      [.mr (a + j) (txt.getD j 0x00#8), .mw (p.vgaBase + 2 * (c + j)) (txt.getD j 0x00#8)])
    ++ [.mr (a + txt.length) 0x00#8]

/-! ### The parameters -/

/-- PANIC_COL and PANIC_ROW as a cell: 1000 under R6's literals (41_console R138). -/
def panicCell (p : Params) : Nat := cellIndex p p.panicCol p.panicRow

/-- The constraints on the parameters that 00_scope R6 states. -/
abbrev statedConstraints (p : Params) : Prop :=
  p.uartBase.toNat + 6 ≤ 0xFFFF ∧ p.vgaBase + (fbBytes p - 1) ≤ 2 ^ p.addrWidth - 1 ∧ 0x00#8 ∉ p.bootMsg

/-- What the document's literals have among themselves, and other values of the same parameters must keep: a screen with
a cell, the panic position on it, PANIC_MSG without the terminator and inside the screen from there. DEDUCED (log 17):
42_boot R174 gives the last of them as the reason why BOOT's message does not fault. -/
abbrev layoutFits (p : Params) : Prop :=
  0 < p.cols ∧ 0 < p.rows ∧ p.panicCol < p.cols ∧ p.panicRow < p.rows ∧
    0x00#8 ∉ p.panicMsg ∧ panicCell p + p.panicMsg.length ≤ cells p

/-- The parameters meet R6's constraints and the layout fits (log 17). -/
abbrev paramsValid (p : Params) : Prop := statedConstraints p ∧ layoutFits p

/-! ### The host while a command runs -/

/-- The host moves that break no duty while a command runs, and use no liberty that is not granted (70_reset R225): reads
of STATUS and CURSOR, writes to the offsets that a write leaves alone, the wait, and reset, "any time". -/
def hostMayWhileBusy (p : Params) : HostMove → Prop
  | .write addr _ => ∃ off, addr = p.hostBase + off ∧ off % 4 = 0 ∧ 0x0C ≤ off
  | .read addr => addr = p.hostBase + 0x0C ∨ addr = p.hostBase + 0x10
  | .supply _ _ => False
  | .await => True
  | .letRun => True
  | .reset => True

/-! ### The invariant -/

/-- A cell of FillBody on the screen. -/
def FillPt.onScreen (p : Params) : FillPt → Prop
  | .char c => c < cells p
  | .attr c => c < cells p

/-- A position of PrintBody on the screen (41_console R144). -/
def PrintPt.onScreen (p : Params) : PrintPt → Prop
  | .read _ col row => col < p.cols ∧ row < p.rows
  | .char _ col row _ => col < p.cols ∧ row < p.rows
  | .attr _ col row => col < p.cols ∧ row < p.rows

/-- PrintBody makes no memory read here. -/
def PrintPt.noRead : PrintPt → Prop
  | .read _ _ _ => False
  | .char _ _ _ _ => True
  | .attr _ _ _ => True

/-- PrintAtBody writes only cells of the screen (41_console R137). -/
def PrintAtPt.onScreen (p : Params) : PrintAtPt → Prop
  | .read _ _ => True
  | .char c _ _ => c < cells p

/-- PrintAtBody in BOOT: character i of PANIC_MSG at cell panicCell + i, no memory read (42_boot R174). -/
def PrintAtPt.inPanicMsg (p : Params) : PrintAtPt → Prop
  | .read _ _ => False
  | .char c i _ => c = panicCell p + i ∧ i < p.panicMsg.length

/-- SendBody makes no memory read here. -/
def SendPt.noRead : SendPt → Prop
  | .poll _ => True
  | .read _ => False
  | .write _ _ => True
  | .pollCr => True
  | .writeCr => True
  | .pollLf => True
  | .writeLf => True

/-- SEQ belongs to the command in CMD, and its loop variables are in range (10_state R21). -/
def seqFits (s : State) : Prop :=
  match s.seq with
  | .empty => True
  | .init _ => decode s.cmd = .command .init
  | .sendline _ => decode s.cmd = .command .sendline
  | .clear p => decode s.cmd = .command .clear ∧ p.onScreen s.params
  | .print p => decode s.cmd = .command .print ∧ p.onScreen s.params
  | .printat p => (∃ col row, decode s.cmd = .command (.printat col row)) ∧ p.onScreen s.params
  | .panicFill p => decode s.cmd = .command .panic ∧ p.onScreen s.params
  | .panicMsg p => decode s.cmd = .command .panic ∧ p.onScreen s.params
  | .bootClear p => decode s.cmd = .command .boot ∧ p.onScreen s.params
  | .bootInit _ => decode s.cmd = .command .boot
  | .bootFill p => decode s.cmd = .command .boot ∧ p.onScreen s.params
  | .bootMsg p => decode s.cmd = .command .boot ∧ p.inPanicMsg s.params
  | .bootPrint p => decode s.cmd = .command .boot ∧ p.onScreen s.params ∧ p.noRead
  | .bootSend p => decode s.cmd = .command .boot ∧ p.noRead

/-- SEQ is inside a PrintBody. -/
def inPrint : Seq → Prop
  | .print _ => True
  | .bootPrint _ => True
  | _ => False

/-- The invariant of the block: it holds at reset and every step keeps it. -/
structure Inv (s : State) : Prop where
  /-- The parameters meet their constraints (00_scope R6, log 17). -/
  params : paramsValid s.params
  /-- Memory is in canonical form. -/
  mem : Memory.wf s.mem
  /-- Every listed byte lies in MEM (20_memory R61). -/
  inMem : ∀ c ∈ s.mem, c.1 < 2 ^ s.params.addrWidth
  /-- CURSOR_X in 0..COLS-1, 79 (10_state R24). -/
  cursorX : s.cursorX.toNat < s.params.cols
  /-- CURSOR_Y in 0..ROWS-1, 24 (10_state R24). -/
  cursorY : s.cursorY.toNat < s.params.rows
  /-- "CURSOR_X differs from 0 only inside a running PRINT or BOOT, or in FAULT after a Print faulted mid-text"
  (41_console R143). -/
  column : s.cursorX ≠ 0x00#8 → (s.state = .fault ∧ decode s.cmd = .command .print) ∨ inPrint s.seq
  /-- "SEQ is empty when STATE is IDLE, DONE or FAULT" (10_state R21). -/
  seqEmpty : s.state ≠ .busy → s.seq = .empty
  /-- SEQ belongs to the command in CMD. -/
  seqFits : seqFits s
  /-- FAULT_CODE is 0x00 exactly outside FAULT (60_exceptions R182, R183). -/
  faultCode : s.faultCode.isSome = true ↔ s.state = .fault
  /-- FAULT_CMD holds CMD in FAULT, 0 otherwise (10_state R26). -/
  faultCmd : s.faultCmd = if s.state = .fault then s.cmd else 0x00000000#32
  /-- DONE is entered by BOOT only (10_state R23). -/
  doneBoot : s.state = .done → decode s.cmd = .command .boot

/-- What SENDLINE's and BOOT's THR writes rest on (40_uart R102 b): from the poll that saw THRE to the write it
allows, the last port access is a read of LSR with THRE = 1. -/
def afterReadyPoll (s : State) : Prop :=
  ∃ v, lastPortEvent s.history = some (.pr (uartPort s.params .lineStatus) v) ∧ threSet s.params v = true

/-- SEQ at a point of SendBody whose poll has seen THRE. -/
def SendPt.polled : SendPt → Prop
  | .poll _ => False
  | .read _ => True
  | .write _ _ => True
  | .pollCr => False
  | .writeCr => True
  | .pollLf => False
  | .writeLf => True

/-- At each point of SendBody past its poll, the last port access saw THRE = 1 (40_uart R102 b). -/
def PollGuard (s : State) : Prop :=
  match s.seq with
  | .sendline p => p.polled → afterReadyPoll s
  | .bootSend p => p.polled → afterReadyPoll s
  | _ => True

end Sys2Proof.Machine
end

