-- ==== Sys2Proof/Certificates/Slice0/Obligations.lean ====
section
/-! DEFINITION. The statements for the provers. Each docstring names the rule of spec/ the statement formalises. A
statement says `exec i s = .next t` for ONE step of a command (20_memory R60: one bus access a step); statements over
`stepN` follow a command from its start to its end. -/

open Sys2Proof Sys2Proof.Machine

/-! ### Encoding -/

/-- Words of the opcode table and of 95_test_vectors 2.1 decode as they say (30_encoding R82). -/
def Obligations.TableWordsDecode : Prop :=
  decodeTableWord 32 0x00000001 = some .init ∧ decodeTableWord 32 0x00000002 = some .txrdy ∧
  decodeTableWord 32 0x00000003 = some .sendline ∧ decodeTableWord 32 0x00000004 = some .clear ∧
  decodeTableWord 32 0x00000005 = some .print ∧ decodeTableWord 32 0x00062806 = some (.printat 40#8 12#8) ∧
  decodeTableWord 32 0x00000007 = some .panic ∧ decodeTableWord 32 0x00000008 = some .boot ∧
  decodeTableWord 32 0x000FFF06 = some (.printat 127#8 31#8) ∧ decodeTableWord 32 0x00000000 = none ∧
  decodeTableWord 32 0x00000101 = none ∧ decodeTableWord 32 0x80000005 = none

/-- 30_encoding R83: Decode by fields, for every word; an Illegal word faults ILLEGAL_CMD before any bus access; the
match/mask pairs. -/
def Obligations.DecodeIsTotalByFields : Prop :=
  ∀ w : Word,
    let op := w.toNat % 256
    let col := w.toNat / 256 % 128
    let row := w.toNat / 32768 % 32
    let rsv := w.toNat / 1048576
    (rsv ≠ 0 → ∃ why, decode w = .illegal why) ∧
    (rsv = 0 → op = 0x06 → decode w = .command (.printat (BitVec.ofNat 8 col) (BitVec.ofNat 8 row))) ∧
    (rsv = 0 → op ≠ 0x06 → col ≠ 0 ∨ row ≠ 0 → ∃ why, decode w = .illegal why) ∧
    (rsv = 0 → col = 0 → row = 0 →
      (op = 0x01 → decode w = .command .init) ∧ (op = 0x02 → decode w = .command .txrdy) ∧
      (op = 0x03 → decode w = .command .sendline) ∧ (op = 0x04 → decode w = .command .clear) ∧
      (op = 0x05 → decode w = .command .print) ∧ (op = 0x07 → decode w = .command .panic) ∧
      (op = 0x08 → decode w = .command .boot) ∧
      (op = 0x00 ∨ 0x09 ≤ op → ∃ why, decode w = .illegal why)) ∧
    (∀ s : State, s.host = [] → s.state = .busy → s.cmd = w → (∃ why, decode w = .illegal why) →
      step s = .next { s with state := .fault, faultCode := some .illegalCmd, faultCmd := w, seq := .empty }) ∧
    ((∃ c r, decode w = .command (.printat c r)) ↔ w &&& 0xFFF000FF#32 = 0x00000006#32) ∧
    (decode w = .command .init ↔ w = 0x00000001#32) ∧ (decode w = .command .txrdy ↔ w = 0x00000002#32) ∧
    (decode w = .command .sendline ↔ w = 0x00000003#32) ∧ (decode w = .command .clear ↔ w = 0x00000004#32) ∧
    (decode w = .command .print ↔ w = 0x00000005#32) ∧ (decode w = .command .panic ↔ w = 0x00000007#32) ∧
    (decode w = .command .boot ↔ w = 0x00000008#32)

/-- Decode and encode agree (30_encoding R81, R83, R84): every well-formed command, with every operand its fields
admit, decodes from its word. -/
def Obligations.DecodeOfEncode : Prop :=
  ∀ i : Instr, i.wellFormed = true → decode (encode i) = .command i

/-- No two words spell one command (30_encoding R83, R85): a word that decodes to a command is that command's word,
and the command is well formed. -/
def Obligations.EncodeOfDecode : Prop :=
  ∀ (w : Word) (i : Instr), decode w = .command i → encode i = w ∧ i.wellFormed = true

/-! ### The step -/

/-- A step runs the decoded command: while BUSY, with no host move in between (none left, the wait of 30_encoding R87,
or a `letRun`), the step is exec of the command in CMD; `letRun` only drops itself from the host's script. -/
def Obligations.StepRunsTheDecodedCommand : Prop :=
  ∀ (s : State) (i : Instr), s.state = .busy → decodeTableWord 32 s.cmd.toNat = some i →
    (s.host = [] → step s = exec i s) ∧
    (∀ rest, s.host = .await :: rest → step s = exec i s) ∧
    (∀ rest, s.host = .letRun :: rest → step s = exec i { s with host := rest })

/-- A placed command is what the next step runs: the host's CMD write (10_state R27) of a table word. -/
def Obligations.PlacedCommandRunsNext : Prop :=
  ∀ (s : State) (w : Nat) (i : Instr), decodeTableWord 32 w = some i →
    step (s.withFetchWord 32 w) = exec i (s.withFetchWord 32 w) ∧
    (s.withFetchWord 32 w).cmd = BitVec.ofNat 32 w ∧ Started (s.withFetchWord 32 w) i

/-- 42_boot R171 and 60_exceptions R183: in DONE and in FAULT the ENGINE takes no step, the host has no move that writes
CMD, and no step but reset leaves them. -/
def Obligations.OnlyResetLeavesDoneAndFault : Prop :=
  ∀ s : State, (s.state = .done ∨ s.state = .fault) →
    (s.host = [] → s.state = .done → step s = .fault .doneRunEnded) ∧
    (s.host = [] → s.state = .fault → step s = .fault .faultRunEnded) ∧
    (∀ w rest, s.host = .write s.params.hostBase w :: rest → step s = .fault .hostWriteWhenStopped) ∧
    (∀ t, step s = .next t →
      (t.state = s.state ∧ t.faultCode = s.faultCode ∧ t.faultCmd = s.faultCmd ∧ t.history = s.history) ∨
        ∃ rest, s.host = .reset :: rest ∧ t.state = .idle)

/-- 20_memory R60: a step of a command makes exactly the one access its pseudocode names next and records it, or raises
a fault without an access and records nothing. -/
def Obligations.OneAccessPerStep : Prop :=
  ∀ (i : Instr) (s t : State), exec i s = .next t →
    (∃ x, nextAccess i s = some x ∧ (∀ a, x = .memRead a → Admitted s a) ∧ t.history = eventOf s x :: s.history) ∨
    ((nextAccess i s = none ∨ ∃ a, nextAccess i s = some (.memRead a) ∧ ¬ Admitted s a) ∧
      t.state = .fault ∧ t.history = s.history)

/-! ### The host's side -/

/-- 10_state R22: the register window from its base on, its reads, its writes and its reset values; below the base, and at
an offset that is not 32-bit aligned, no access exists and the model stops (logs 7 and 30). PTR and LEN are written in
IDLE (92 D28, log 34); while BUSY only STATUS and CURSOR are read (70_reset R225, log 34). -/
def Obligations.HostRegisterWindow : Prop :=
  (∀ (s : State) (off : Nat) (rest : List HostMove), s.host = .read (s.params.hostBase + off) :: rest → off % 4 = 0 →
    s.state ≠ .busy ∨ off = 0x0C ∨ off = 0x10 →
    step s = .next { s with
      host := rest
      seen := (if off = 0x00 then s.cmd else if off = 0x04 then s.ptr else if off = 0x08 then s.len
        else if off = 0x0C then s.statusWord else if off = 0x10 then s.cursorWord
        else if off = 0x14 then s.faultCmd else 0x00000000#32) :: s.seen }) ∧
  (∀ (s : State) (off : Nat) (v : Word) (rest : List HostMove),
    s.host = .write (s.params.hostBase + off) v :: rest → off % 4 = 0 →
    (off = 0x00 → s.state = .idle → step s = .next { s with host := rest, cmd := v, state := .busy }) ∧
    (off = 0x04 → s.state = .idle → step s = .next { s with host := rest, ptr := v }) ∧
    (off = 0x08 → s.state = .idle → step s = .next { s with host := rest, len := v }) ∧
    (0x0C ≤ off → step s = .next { s with host := rest })) ∧
  (∀ (s : State) (addr : Nat) (v : Word) (rest : List HostMove),
    s.host = .read addr :: rest ∨ s.host = .write addr v :: rest →
    (addr < s.params.hostBase → step s = .fault .hostOutsideWindow) ∧
    (∀ off, addr = s.params.hostBase + off → off % 4 ≠ 0 → step s = .fault .hostMisaligned)) ∧
  (State.reset.cmd = 0#32 ∧ State.reset.ptr = 0#32 ∧ State.reset.len = 0#32 ∧ State.reset.statusWord = 0#32 ∧
    State.reset.cursorWord = 0#32 ∧ State.reset.faultCmd = 0#32)

/-- 70_reset R225, 92 D28 and 93 I23, as logs 5 and 34 put them: a host move that fails a duty is no move, and the model
stops on it; a liberty not granted, a read of a register other than STATUS and CURSOR while BUSY, is refused. That PTR and
LEN, with CMD, are not written in DONE and FAULT either is D28's, and the model's choice (log 34). -/
def Obligations.HostDutiesStopTheModel : Prop :=
  ∀ (s : State) (rest : List HostMove),
    (∀ off v, s.host = .write (s.params.hostBase + off) v :: rest → off = 0x00 ∨ off = 0x04 ∨ off = 0x08 →
      (s.state = .busy → step s = .fault .hostWriteWhileBusy) ∧
      (s.state = .done ∨ s.state = .fault → step s = .fault .hostWriteWhenStopped)) ∧
    (∀ off, s.host = .read (s.params.hostBase + off) :: rest → off % 4 = 0 → off ≠ 0x0C → off ≠ 0x10 →
      s.state = .busy → step s = .refused .hostReadWhileBusy) ∧
    (∀ a b, s.host = .supply a b :: rest → s.state = .busy → step s = .fault .hostSupplyWhileBusy) ∧
    (∀ a b, s.host = .supply a b :: rest → s.state ≠ .busy →
      inFb s.params a = true ∨ isReadable s.params a = false ∨ 2 ^ s.params.addrWidth ≤ a →
      step s = .fault .hostSupplyNoMemory)

/-- 10_state R32: text the host supplies before a command is what a later read of that byte returns, and changes no other
byte. -/
def Obligations.SuppliedTextIsRead : Prop :=
  ∀ (s : State) (a : Nat) (b : Byte) (rest : List HostMove), s.host = .supply a b :: rest → s.state ≠ .busy →
    inFb s.params a = false → isReadable s.params a = true → a < 2 ^ s.params.addrWidth →
    ∃ t, step s = .next t ∧ t.byteAt a = b ∧ (∀ x, x ≠ a → t.byteAt x = s.byteAt x) ∧
      t = { s with host := rest, mem := t.mem }

/-- 10_state R23 and R24: the fields of STATUS and CURSOR as the host reads them, the reserved bits 0. -/
def Obligations.StatusAndCursorFields : Prop :=
  ∀ s : State,
    s.statusWord.extractLsb' 0 2 =
      (match s.state with | .idle => 0#2 | .busy => 1#2 | .done => 2#2 | .fault => 3#2) ∧
    s.statusWord.getLsbD 2 = s.initOk ∧ s.statusWord.getLsbD 3 = s.txrdy ∧
    s.statusWord.extractLsb' 4 4 = 0#4 ∧
    s.statusWord.extractLsb' 8 8 =
      (match s.faultCode with
        | none => 0x00#8 | some .illegalCmd => 0x01#8 | some .printatCoord => 0x02#8 | some .fbOverrun => 0x03#8
        | some .srcUnmapped => 0x04#8 | some .addrWrap => 0x05#8) ∧
    s.statusWord.extractLsb' 16 16 = 0#16 ∧
    s.cursorWord.extractLsb' 0 8 = s.cursorX ∧ s.cursorWord.extractLsb' 8 8 = s.cursorY ∧
    s.cursorWord.extractLsb' 16 16 = 0#16

/-- 70_reset R210, from any STATE, BUSY among them. That FB's content is the free value `Config.fbAtReset`, and that the
UART, text-source memory and the history stay, are log 10 and log 19. -/
def Obligations.ResetFromAnyState : Prop :=
  ∀ (s : State) (rest : List HostMove), s.host = .reset :: rest →
    ∃ t, step s = .next t ∧ t.state = .idle ∧ t.initOk = false ∧ t.txrdy = false ∧ t.faultCode = none ∧
      t.cmd = 0#32 ∧ t.ptr = 0#32 ∧ t.len = 0#32 ∧ t.faultCmd = 0#32 ∧ t.cursorX = 0#8 ∧ t.cursorY = 0#8 ∧
      t.seq = .empty ∧ t.uart = s.uart ∧ t.params = s.params ∧ t.history = s.history ∧ t.host = rest ∧
      (∀ a, inFb s.params a = true → t.byteAt a = Config.fbAtReset (s.resets + 1) a) ∧
      (∀ a, inFb s.params a = false → t.byteAt a = s.byteAt a)

/-! ### Faults -/

/-- 30_encoding R85 with 41_console R137: a PRINTAT whose COL or ROW is no coordinate (COL >= 80 or ROW >= 25 under R6's
literals) is legal at decode and faults PRINTAT_COORD when it runs, before any access. -/
def Obligations.PrintatCoordFaultsWhenRun : Prop :=
  (∀ col row : Byte, col.toNat < 128 → row.toNat < 32 →
    decode (0x06#32 ||| col.setWidth 32 <<< 8 ||| row.setWidth 32 <<< 15) = .command (.printat col row)) ∧
  (∀ (col row : Byte) (s : State), s.seq = .empty → s.params.cols ≤ col.toNat ∨ s.params.rows ≤ row.toNat →
    exec (.printat col row) s =
      .next { s with state := .fault, faultCode := some .printatCoord, faultCmd := s.cmd, seq := .empty })

/-- 60_exceptions R182, R185 and 20_memory R64: where a text byte may not be read, the fault ADDR_WRAP first, then
SRC_UNMAPPED, at each point where SENDLINE, PRINT, PRINTAT and PANIC come to the byte: at the start of PRINT and of an
in-range PRINTAT without any access; elsewhere in the step of the access before the text byte (20_memory R60): the poll
of a SENDLINE byte, the attribute write of a PRINT, the character write of a PRINTAT, the last write of PANIC's fill and
each character write of its message. -/
def Obligations.TextFaultsAtTheTextByte : Prop :=
  ∀ (s : State) (c : FaultCode) (a : Nat),
    let p := s.params
    (2 ^ p.addrWidth ≤ a ∧ c = .addrWrap) ∨
      (a < 2 ^ p.addrWidth ∧ inFb p a = false ∧ isReadable p a = false ∧ c = .srcUnmapped) →
    (a = s.ptr.toNat → s.seq = .empty → exec .print s = .next (s.enterFault c)) ∧
    (∀ col row : Byte, a = s.ptr.toNat → s.seq = .empty → col.toNat < p.cols → row.toNat < p.rows →
      exec (.printat col row) s = .next (s.enterFault c)) ∧
    (∀ k, a = s.ptr.toNat → k + 1 = cells p → p.panicCol < p.cols → p.panicRow < p.rows →
      s.seq = .panicFill (.attr k) →
      exec .panic s = .next ((s.afterMemWrite (p.vgaBase + 2 * k + 1) p.panicAttr).enterFault c)) ∧
    (∀ (i k : Nat) (b : Byte), a = s.ptr.toNat + (i + 1) → k < cells p → s.seq = .panicMsg (.char k i b) →
      exec .panic s = .next ((s.afterMemWrite (p.vgaBase + 2 * k) b).enterFault c)) ∧
    (∀ i, a = s.ptr.toNat + i → i < s.len.toNat → (s.seq = .sendline (.poll i) ∨ (s.seq = .empty ∧ i = 0)) →
      s.portAnswer .lineStatus &&& p.threMask ≠ 0#8 →
      exec .sendline s = .next ((s.afterPortRead .lineStatus).enterFault c)) ∧
    (∀ i col row, a = s.ptr.toNat + (i + 1) → col < p.cols → row < p.rows → s.seq = .print (.attr i col row) →
      exec .print s =
        .next (((s.afterMemWrite (p.vgaBase + 2 * (row * p.cols + col) + 1) p.printAttr).setCursor
          ((col + 1) % p.cols) (if col + 1 = p.cols then (row + 1) % p.rows else row)).enterFault c)) ∧
    (∀ (col row : Byte) (i k : Nat) (b : Byte), a = s.ptr.toNat + (i + 1) → k < cells p →
      s.seq = .printat (.char k i b) →
      exec (.printat col row) s = .next ((s.afterMemWrite (p.vgaBase + 2 * k) b).enterFault c))

/-- 60_exceptions R182, R185: a PRINTAT or PANIC character for cell CELLS (2000) or above faults FB_OVERRUN after its read
and before its write; a terminator there ends the command without a fault. -/
def Obligations.OverrunFaultsBeforeTheWrite : Prop :=
  ∀ (s : State) (col row : Byte) (c i : Nat), cells s.params ≤ c → Admitted s (s.ptr.toNat + i) →
    (s.seq = .printat (.read c i) → s.byteAt (s.ptr.toNat + i) ≠ 0#8 →
      exec (.printat col row) s = .next ((s.afterMemRead (s.ptr.toNat + i)).enterFault .fbOverrun)) ∧
    (s.seq = .panicMsg (.read c i) → s.byteAt (s.ptr.toNat + i) ≠ 0#8 →
      exec .panic s = .next ((s.afterMemRead (s.ptr.toNat + i)).enterFault .fbOverrun)) ∧
    (s.seq = .printat (.read c i) → s.byteAt (s.ptr.toNat + i) = 0#8 →
      exec (.printat col row) s = .next { s.afterMemRead (s.ptr.toNat + i) with state := .idle, seq := .empty }) ∧
    (s.seq = .panicMsg (.read c i) → s.byteAt (s.ptr.toNat + i) = 0#8 →
      exec .panic s = .next { s.afterMemRead (s.ptr.toNat + i) with state := .idle, seq := .empty })

/-- 60_exceptions R183: whatever command faults, entering FAULT records a code and CMD, empties SEQ, and leaves INIT_OK,
TXRDY, CMD, PTR and LEN, and CURSOR too for every command but PRINT (whose step may move CURSOR before the fault of the
next text byte, 41_console R132); a step that does not fault leaves FAULT_CODE and FAULT_CMD. -/
def Obligations.FaultEntryRecordsTheCommand : Prop :=
  ∀ (i : Instr) (s t : State), s.state = .busy → exec i s = .next t →
    (t.state = .fault → t.faultCode.isSome = true ∧ t.faultCmd = s.cmd ∧ t.seq = .empty ∧
      t.initOk = s.initOk ∧ t.txrdy = s.txrdy ∧ t.cmd = s.cmd ∧ t.ptr = s.ptr ∧ t.len = s.len ∧
      (i ≠ .print → t.cursorX = s.cursorX ∧ t.cursorY = s.cursorY)) ∧
    (t.state ≠ .fault → t.faultCode = s.faultCode ∧ t.faultCmd = s.faultCmd)

/-! ### The UART family -/

/-- 40_uart R103, one step of INIT at each of its accesses, from the start to both ends. -/
def Obligations.InitMakesItsAccessesInOrder : Prop :=
  ∀ s : State,
    let p := s.params
    (s.seq = .empty ∨ s.seq = .init .ier →
      exec .init s = .next { s.afterPortWrite .intEnable p.ierOff with seq := .init .lcrDlab }) ∧
    (s.seq = .init .lcrDlab →
      exec .init s = .next { s.afterPortWrite .lineControl p.lcrDlab with seq := .init .dll }) ∧
    (s.seq = .init .dll → exec .init s = .next { s.afterPortWrite .data (divisorLow p) with seq := .init .dlm }) ∧
    (s.seq = .init .dlm → exec .init s = .next { s.afterPortWrite .intEnable (divisorHigh p) with seq := .init .lcr8n1 }) ∧
    (s.seq = .init .lcr8n1 →
      exec .init s = .next { s.afterPortWrite .lineControl p.lcr8n1 with seq := .init .fcr }) ∧
    (s.seq = .init .fcr →
      exec .init s = .next { s.afterPortWrite .fifoControl p.fcrInit with seq := .init .mcrNormal }) ∧
    (s.seq = .init .mcrNormal →
      exec .init s = .next { s.afterPortWrite .modemControl p.mcrNormal with seq := .init .mcrLoop }) ∧
    (s.seq = .init .mcrLoop →
      exec .init s = .next { s.afterPortWrite .modemControl p.mcrLoop with seq := .init .thr }) ∧
    (s.seq = .init .thr → exec .init s = .next { s.afterPortWrite .data p.testByte with seq := .init .rbr }) ∧
    (s.seq = .init .rbr → s.portAnswer .data = p.testByte →
      exec .init s = .next { s.afterPortRead .data with seq := .init .mcrFinal }) ∧
    (s.seq = .init .rbr → s.portAnswer .data ≠ p.testByte →
      exec .init s = .next { s.afterPortRead .data with initOk := false, state := .idle, seq := .empty }) ∧
    (s.seq = .init .mcrFinal →
      exec .init s =
        .next { s.afterPortWrite .modemControl p.mcrFinal with initOk := true, state := .idle, seq := .empty })

/-- 40_uart R107 (with R100 a, b): for every device, the port writes up to the test byte are the same nine; then the
result is failure exactly when the readback differs from TEST_BYTE (0x55), and only the last write depends on it. -/
def Obligations.SelfTestLaw : Prop :=
  ∀ s : State, Started s .init →
    ∃ u, stepN 9 s = .next u ∧ u.history = (initWrites s.params).reverse ++ s.history ∧ u.mem = s.mem ∧
      (u.portAnswer .data ≠ s.params.testByte →
        ∃ t, stepN 10 s = .next t ∧ t.state = .idle ∧ t.initOk = false ∧ t.mem = s.mem ∧
          t.history = .pr (s.params.uartBase + 0#16) (u.portAnswer .data) :: u.history) ∧
      (u.portAnswer .data = s.params.testByte →
        ∃ t, stepN 11 s = .next t ∧ t.state = .idle ∧ t.initOk = true ∧ t.mem = s.mem ∧
          t.history = .pw (s.params.uartBase + 4#16) s.params.mcrFinal
            :: .pr (s.params.uartBase + 0#16) s.params.testByte :: u.history)

/-- 40_uart R101: TXRDY makes one read of LSR, writes TXRDY from bit THRE, and ends; nothing else of the ENGINE changes.
Under the THRE_MASK of 00_scope R6 only LSR bit 5 matters. Its word is 0x00000002. -/
def Obligations.TxrdyReadsLsrOnce : Prop :=
  decode 0x00000002#32 = .command .txrdy ∧
  ∀ s : State, s.seq = .empty →
    exec .txrdy s = .next { s with
      uart := s.uart.afterRead .lineStatus
      history := .pr (s.params.uartBase + 5#16) (s.portAnswer .lineStatus) :: s.history
      txrdy := (s.portAnswer .lineStatus &&& s.params.threMask) != 0#8
      state := .idle
      seq := .empty } ∧
    (s.params.threMask = 0x20#8 → ∃ t, exec .txrdy s = .next t ∧ t.txrdy = (s.portAnswer .lineStatus).getLsbD 5)

/-- 40_uart R104, R105: one step of SENDLINE at each of its accesses, from the start to its end. -/
def Obligations.SendlineMakesItsAccessesInOrder : Prop :=
  ∀ (s : State) (i : Nat),
    let v := s.portAnswer .lineStatus
    let p := s.ptr.toNat
    (∀ q : SendPt, (s.seq = .sendline q ∨ (s.seq = .empty ∧ i = 0 ∧ q = if 0 < s.len.toNat then .poll 0 else .pollCr)) →
      (q = .poll i → v &&& s.params.threMask = 0#8 →
        exec .sendline s = .next { s.afterPortRead .lineStatus with seq := .sendline (.poll i) }) ∧
      (q = .poll i → v &&& s.params.threMask ≠ 0#8 → Admitted s (p + i) →
        exec .sendline s = .next { s.afterPortRead .lineStatus with seq := .sendline (.read i) }) ∧
      (q = .pollCr →
        exec .sendline s = .next { s.afterPortRead .lineStatus with
          seq := .sendline (if v &&& s.params.threMask = 0#8 then .pollCr else .writeCr) })) ∧
    (s.seq = .sendline (.read i) → Admitted s (p + i) →
      exec .sendline s = .next { s.afterMemRead (p + i) with seq := .sendline (.write i (s.byteAt (p + i))) }) ∧
    (∀ b, s.seq = .sendline (.write i b) →
      exec .sendline s = .next { s.afterPortWrite .data b with
        seq := .sendline (if i + 1 < s.len.toNat then .poll (i + 1) else .pollCr) }) ∧
    (s.seq = .sendline .writeCr →
      exec .sendline s = .next { s.afterPortWrite .data s.params.carriageReturn with seq := .sendline .pollLf }) ∧
    (s.seq = .sendline .pollLf →
      exec .sendline s = .next { s.afterPortRead .lineStatus with
        seq := .sendline (if v &&& s.params.threMask = 0#8 then .pollLf else .writeLf) }) ∧
    (s.seq = .sendline .writeLf →
      exec .sendline s = .next { s.afterPortWrite .data s.params.lineFeed with state := .idle, seq := .empty })

/-- 40_uart R105, R102: a SENDLINE whose polls see THRE at once sends exactly its LEN bytes in index order, whatever
their values, then CR LF, and changes nothing but the history, the oracle's answers and STATE. -/
def Obligations.SendlineSendsItsBytesThenCrLf : Prop :=
  ∀ (s : State) (txt : List Byte) (ready : Nat → Byte) (rest : List Byte),
    Started s .sendline → s.len.toNat = txt.length → TextAt s s.ptr.toNat txt → s.uart.mode = .oracle →
    s.uart.answers = (List.range (txt.length + 2)).map ready ++ rest →
    (∀ j, j < txt.length + 2 → ready j &&& s.params.threMask ≠ 0#8) →
    stepN (3 * txt.length + 4) s = .next { s with
      state := .idle
      seq := .empty
      uart := { s.uart with answers := rest }
      history := (sendEvents s.params s.ptr.toNat txt ready).reverse ++ s.history }

/-- 40_uart R104, 70_reset R214: WaitTx has no bound. For every k, an oracle that answers k reads of LSR without THRE
keeps SENDLINE polling through k steps: STATE stays BUSY and nothing is written. -/
def Obligations.WaitTxHasNoBound : Prop :=
  ∀ (s : State) (i : Nat) (silent rest : List Byte),
    s.state = .busy → s.host = [] → decode s.cmd = .command .sendline →
    (s.seq = .sendline (.poll i) ∨ s.seq = .sendline .pollCr ∨ s.seq = .sendline .pollLf) →
    s.uart.mode = .oracle → s.uart.answers = silent ++ rest →
    (∀ b ∈ silent, b &&& s.params.threMask = 0#8) →
    stepN silent.length s = .next { s with
      uart := { s.uart with answers := rest }
      history := (silent.map (Event.pr (s.params.uartBase + 5#16))).reverse ++ s.history }

/-- 40_uart R102 b: "Each THR write comes after at least one LSR read with THRE = 1, and that read is the last port access
before the write". The guard holds where no SendBody is past its poll, every step keeps it, and a THR write of
SENDLINE happens only under it. -/
def Obligations.ThrWritesFollowAReadyPoll : Prop :=
  (∀ s t : State, PollGuard s → step s = .next t → PollGuard t) ∧
  (∀ (s t : State) (b : Byte), PollGuard s → exec .sendline s = .next t →
    t.history = .pw (uartPort s.params .data) b :: s.history → afterReadyPoll s)

/-- 70_reset R212 over the reference device of 10_state R45 (log 9, log 22: its bits are general knowledge): INIT with the
configuration bytes of 00_scope R6 passes its self-test, programs DIVISOR (for divisor 1 the rate 115200, 40_uart R106),
8N1, the FIFOs on (10_state R42, log 35) and MCR_FINAL; IER is 0 afterwards if DLAB was 0 at its start, and keeps its
value if DLAB was 1. -/
def Obligations.InitOnTheReferenceUart : Prop :=
  ∀ s : State, Started s .init → s.uart.mode = .ref →
    let p := s.params
    p.ierOff = 0x00#8 → p.lcrDlab = 0x80#8 → p.lcr8n1 = 0x03#8 → p.fcrInit = 0x07#8 → p.mcrNormal = 0x0B#8 →
    p.mcrLoop = 0x1B#8 → p.mcrFinal = 0x0B#8 →
    ∃ t, stepN 11 s = .next t ∧ t.state = .idle ∧ t.initOk = true ∧
      t.uart.dll = divisorLow p ∧ t.uart.dlm = divisorHigh p ∧
      (p.divisor.bits = 0x0001#16 → p.baseClock = 115200 → baudRate p t.uart.divisor = some 115200) ∧
      t.uart.lcr = 0x03#8 ∧ t.uart.mcr = 0x0B#8 ∧ t.uart.fcr = 0x01#8 ∧ t.uart.rx = [] ∧ t.uart.tx = [] ∧
      t.uart.line = s.uart.line ∧
      (s.uart.dlab = false → t.uart.ier = 0x00#8) ∧ (s.uart.dlab = true → t.uart.ier = s.uart.ier)

/-- What INIT, TXRDY and SENDLINE leave alone (40_uart R100 e, R101 a, R102 f; 10_state R23, R25): memory, CURSOR, the
command registers; the flag each other command writes. -/
def Obligations.UartCommandsFrame : Prop :=
  ∀ (i : Instr) (s t : State), i = .init ∨ i = .txrdy ∨ i = .sendline → exec i s = .next t →
    t.params = s.params ∧ t.cmd = s.cmd ∧ t.ptr = s.ptr ∧ t.len = s.len ∧
    t.cursorX = s.cursorX ∧ t.cursorY = s.cursorY ∧ t.mem = s.mem ∧ (∀ a, t.byteAt a = s.byteAt a) ∧
    t.resets = s.resets ∧ t.host = s.host ∧ t.seen = s.seen ∧
    (i ≠ .init → t.initOk = s.initOk) ∧ (i ≠ .txrdy → t.txrdy = s.txrdy) ∧
    (i ≠ .sendline ∨ t.state ≠ .fault → t.faultCode = s.faultCode ∧ t.faultCmd = s.faultCmd)

/-! ### The console family -/

/-- 41_console R133, R136: one step of CLEAR at each of its accesses, from the start to its end. -/
def Obligations.ClearWritesCellByCell : Prop :=
  ∀ (s : State) (c : Nat), c < cells s.params →
    (s.seq = .clear (.char c) ∨ (s.seq = .empty ∧ c = 0) →
      exec .clear s = .next { s with
        mem := memWrite s.mem (s.params.vgaBase + 2 * c) 0x00#8
        history := .mw (s.params.vgaBase + 2 * c) 0x00#8 :: s.history
        seq := .clear (.attr c) }) ∧
    (s.seq = .clear (.attr c) →
      exec .clear s = .next { s with
        mem := memWrite s.mem (s.params.vgaBase + 2 * c + 1) 0x00#8
        history := .mw (s.params.vgaBase + 2 * c + 1) 0x00#8 :: s.history
        state := if c + 1 < cells s.params then s.state else .idle
        seq := if c + 1 < cells s.params then .clear (.char (c + 1)) else .empty })

/-- 41_console R130: CLEAR makes exactly FB_BYTES (4000) writes in ascending address order and no other access; afterwards
every byte of FB is 0x00, every other byte and CURSOR keep their values, and STATE = IDLE. -/
def Obligations.ClearBlanksTheScreen : Prop :=
  ∀ s : State, Started s .clear → 0 < cells s.params →
    ∃ m, stepN (fbBytes s.params) s = .next { s with
        state := .idle, seq := .empty, mem := m,
        history := (fillEvents s.params 0x00#8 0x00#8).reverse ++ s.history } ∧
      (∀ c, c < cells s.params → memLookup m (s.params.vgaBase + 2 * c) = some 0x00#8 ∧
        memLookup m (s.params.vgaBase + 2 * c + 1) = some 0x00#8) ∧
      (∀ a, inFb s.params a = false → memLookup m a = memLookup s.mem a)

/-- 41_console R132: one step of PRINT at each of its accesses, from the start to its end. -/
def Obligations.PrintMakesItsAccessesInOrder : Prop :=
  ∀ (s : State) (i col row : Nat),
    let p := s.ptr.toNat
    (s.seq = .print (.read i col row) ∨ (s.seq = .empty ∧ i = 0 ∧ col = 0 ∧ row = s.cursorY.toNat) →
      Admitted s (p + i) →
      (s.byteAt (p + i) ≠ 0#8 →
        exec .print s = .next { s.afterMemRead (p + i) with
          seq := .print (.char i col row (s.byteAt (p + i))) }) ∧
      (s.byteAt (p + i) = 0#8 → row < s.params.rows →
        exec .print s = .next { s.afterMemRead (p + i) with
          cursorX := 0#8, cursorY := BitVec.ofNat 8 ((row + 1) % s.params.rows), state := .idle, seq := .empty })) ∧
    (∀ b, s.seq = .print (.char i col row b) → col < s.params.cols → row < s.params.rows →
      exec .print s = .next { s.afterMemWrite (s.params.vgaBase + 2 * (row * s.params.cols + col)) b with
        seq := .print (.attr i col row) }) ∧
    (s.seq = .print (.attr i col row) → col < s.params.cols → row < s.params.rows → Admitted s (p + (i + 1)) →
      exec .print s = .next { s.afterMemWrite (s.params.vgaBase + 2 * (row * s.params.cols + col) + 1) s.params.printAttr with
        cursorX := BitVec.ofNat 8 ((col + 1) % s.params.cols)
        cursorY := BitVec.ofNat 8 (if col + 1 = s.params.cols then (row + 1) % s.params.rows else row)
        seq := .print (.read (i + 1) ((col + 1) % s.params.cols)
          (if col + 1 = s.params.cols then (row + 1) % s.params.rows else row)) })

/-- 41_console R139: a print of n characters from row y takes the cursor to (0, (y + n div COLS + 1) mod ROWS), which is
(0, (y + n div 80 + 1) mod 25), whatever the text outside FB and whatever CURSOR_X was. -/
def Obligations.PrintMovesTheCursor : Prop :=
  ∀ (s : State) (txt : List Byte), Started s .print → TerminatedTextAt s txt → 0 < s.params.cols →
    s.cursorY.toNat < s.params.rows →
    ∃ t, stepN (3 * txt.length + 1) s = .next t ∧ t.state = .idle ∧ t.seq = .empty ∧ t.cursorX = 0#8 ∧
      t.cursorY = BitVec.ofNat 8 ((s.cursorY.toNat + txt.length / s.params.cols + 1) % s.params.rows)

/-- 41_console R141 (with R132): the accesses of a print of any length: character j goes to cell (y*COLS + j) mod
CELLS, (y*80 + j) mod 2000, with attribute PRINT_ATTR, 0x0F; a print of COLS*k characters ends on row (y + k + 1) mod
ROWS. -/
def Obligations.PrintWritesCharacterJAtItsCell : Prop :=
  ∀ (s : State) (txt : List Byte), Started s .print → TerminatedTextAt s txt → 0 < s.params.cols →
    s.cursorY.toNat < s.params.rows →
    ∃ t, stepN (3 * txt.length + 1) s = .next t ∧
      t.history = (printEvents s.params s.ptr.toNat s.cursorY.toNat txt).reverse ++ s.history ∧
      (∀ k, txt.length = s.params.cols * k →
        t.cursorX = 0#8 ∧ t.cursorY = BitVec.ofNat 8 ((s.cursorY.toNat + k + 1) % s.params.rows))

/-- What a print of at most CELLS (2000) characters leaves (41_console R132, R141): each character and PRINT_ATTR in its cell,
every other byte, the UART and the flags as they were. -/
def Obligations.PrintLeavesTheScreen : Prop :=
  ∀ (s : State) (txt : List Byte), Started s .print → TerminatedTextAt s txt → 0 < s.params.cols →
    s.cursorY.toNat < s.params.rows →
    txt.length ≤ cells s.params →
    ∃ t, stepN (3 * txt.length + 1) s = .next t ∧
      (∀ j, j < txt.length →
        t.byteAt (s.params.vgaBase + 2 * printCell s.params s.cursorY.toNat j) = txt.getD j 0#8 ∧
        t.byteAt (s.params.vgaBase + 2 * printCell s.params s.cursorY.toNat j + 1) = s.params.printAttr) ∧
      (∀ a, (∀ j, j < txt.length → a ≠ s.params.vgaBase + 2 * printCell s.params s.cursorY.toNat j ∧
          a ≠ s.params.vgaBase + 2 * printCell s.params s.cursorY.toNat j + 1) → t.byteAt a = s.byteAt a) ∧
      t.uart = s.uart ∧ t.initOk = s.initOk ∧ t.txrdy = s.txrdy ∧ t.faultCode = s.faultCode

/-- 41_console R140: an empty print moves the cursor from row y to row (y+1) mod ROWS (25), column 0, and writes no cell. -/
def Obligations.EmptyPrintAdvancesOneRow : Prop :=
  ∀ s : State, Started s .print → Admitted s s.ptr.toNat → s.byteAt s.ptr.toNat = 0#8 → s.cursorY.toNat < s.params.rows →
    step s = .next { s with
      history := .mr s.ptr.toNat 0#8 :: s.history
      cursorX := 0#8
      cursorY := BitVec.ofNat 8 ((s.cursorY.toNat + 1) % s.params.rows)
      state := .idle
      seq := .empty }

/-- 41_console R137: one step of PRINTAT at each of its accesses, from the start to its end. -/
def Obligations.PrintatMakesItsAccessesInOrder : Prop :=
  ∀ (s : State) (col row : Byte) (c i : Nat),
    let p := s.ptr.toNat
    (s.seq = .printat (.read c i) ∨
        (s.seq = .empty ∧ i = 0 ∧ col.toNat < s.params.cols ∧ row.toNat < s.params.rows ∧
          c = row.toNat * s.params.cols + col.toNat) →
      Admitted s (p + i) →
      (s.byteAt (p + i) ≠ 0#8 → c < cells s.params →
        exec (.printat col row) s = .next { s.afterMemRead (p + i) with
          seq := .printat (.char c i (s.byteAt (p + i))) }) ∧
      (s.byteAt (p + i) = 0#8 →
        exec (.printat col row) s = .next { s.afterMemRead (p + i) with state := .idle, seq := .empty })) ∧
    (∀ b, s.seq = .printat (.char c i b) → c < cells s.params → Admitted s (p + (i + 1)) →
      exec (.printat col row) s = .next { s.afterMemWrite (s.params.vgaBase + 2 * c) b with
        seq := .printat (.read (c + 1) (i + 1)) })

/-- 41_console R134, R137: a PRINTAT of n characters that fit writes the character bytes of cells c to c+n-1, running on
from the last column, 79, to the next row; every other byte, the attributes among them, and CURSOR keep their values. -/
def Obligations.PrintatWritesOnlyCharacterBytes : Prop :=
  ∀ (s : State) (col row : Byte) (txt : List Byte), Started s (.printat col row) → TerminatedTextAt s txt →
    col.toNat < s.params.cols → row.toNat < s.params.rows →
    row.toNat * s.params.cols + col.toNat + txt.length ≤ cells s.params →
    ∃ m, stepN (2 * txt.length + 1) s = .next { s with
        state := .idle, seq := .empty, mem := m,
        history := (printAtEvents s.params s.ptr.toNat (row.toNat * s.params.cols + col.toNat) txt).reverse ++ s.history } ∧
      (∀ j, j < txt.length →
        memLookup m (s.params.vgaBase + 2 * (row.toNat * s.params.cols + col.toNat + j)) = some (txt.getD j 0#8)) ∧
      (∀ a, (∀ j, j < txt.length → a ≠ s.params.vgaBase + 2 * (row.toNat * s.params.cols + col.toNat + j)) →
        memLookup m a = memLookup s.mem a)

/-- 41_console R138: one step of PANIC at each access of its fill, and at each access of its message. -/
def Obligations.PanicMakesItsAccessesInOrder : Prop :=
  ∀ (s : State) (c i : Nat),
    let p := s.ptr.toNat
    (c < cells s.params → s.seq = .panicFill (.char c) ∨ (s.seq = .empty ∧ c = 0) →
      exec .panic s = .next { s.afterMemWrite (s.params.vgaBase + 2 * c) s.params.panicFillChar with
        seq := .panicFill (.attr c) }) ∧
    (c + 1 < cells s.params → s.seq = .panicFill (.attr c) →
      exec .panic s = .next { s.afterMemWrite (s.params.vgaBase + 2 * c + 1) s.params.panicAttr with
        seq := .panicFill (.char (c + 1)) }) ∧
    (c + 1 = cells s.params → s.params.panicCol < s.params.cols → s.params.panicRow < s.params.rows →
      s.seq = .panicFill (.attr c) → Admitted s p →
      exec .panic s = .next { s.afterMemWrite (s.params.vgaBase + 2 * c + 1) s.params.panicAttr with
        seq := .panicMsg (.read (s.params.panicRow * s.params.cols + s.params.panicCol) 0) }) ∧
    (s.seq = .panicMsg (.read c i) → Admitted s (p + i) →
      (s.byteAt (p + i) ≠ 0#8 → c < cells s.params →
        exec .panic s = .next { s.afterMemRead (p + i) with seq := .panicMsg (.char c i (s.byteAt (p + i))) }) ∧
      (s.byteAt (p + i) = 0#8 →
        exec .panic s = .next { s.afterMemRead (p + i) with state := .idle, seq := .empty })) ∧
    (∀ b, s.seq = .panicMsg (.char c i b) → c < cells s.params → Admitted s (p + (i + 1)) →
      exec .panic s = .next { s.afterMemWrite (s.params.vgaBase + 2 * c) b with
        seq := .panicMsg (.read (c + 1) (i + 1)) })

/-- 41_console R135, R138: after a PANIC with a message outside FB that fits from cell (PANIC_COL, PANIC_ROW) on (at most
1000 bytes from cell 1000 under R6's literals), every cell has the attribute PANIC_ATTR, the message stands from that
cell on, every other character is PANIC_FILL_CHAR, every byte outside FB and CURSOR keep their values, and the ENGINE is
ready again: no halt. -/
def Obligations.PanicFillsTheScreenAndReturns : Prop :=
  ∀ (s : State) (txt : List Byte),
    let p := s.params
    let k := panicCell p
    Started s .panic → TerminatedTextAt s txt → p.panicCol < p.cols → p.panicRow < p.rows →
    k + txt.length ≤ cells p →
    ∃ m, stepN (fbBytes p + (2 * txt.length + 1)) s = .next { s with
        state := .idle, seq := .empty, mem := m,
        history := (printAtEvents p s.ptr.toNat k txt).reverse ++
          ((fillEvents p p.panicFillChar p.panicAttr).reverse ++ s.history) } ∧
      (∀ c, c < cells p → memLookup m (p.vgaBase + 2 * c + 1) = some p.panicAttr) ∧
      (∀ c, c < cells p → memLookup m (p.vgaBase + 2 * c) =
        some (if k ≤ c ∧ c < k + txt.length then txt.getD (c - k) 0#8 else p.panicFillChar)) ∧
      (∀ a, inFb p a = false → memLookup m a = memLookup s.mem a)

/-- What CLEAR, PRINT, PRINTAT and PANIC leave alone (10_state R25; 41_console R130, R131, R134, R135): the UART, the
command registers, INIT_OK and TXRDY; CURSOR but for PRINT; FAULT_CODE and FAULT_CMD where no fault is raised. -/
def Obligations.ConsoleCommandsFrame : Prop :=
  ∀ (i : Instr) (s t : State),
    i = .clear ∨ i = .print ∨ (∃ col row, i = .printat col row) ∨ i = .panic → exec i s = .next t →
    t.params = s.params ∧ t.cmd = s.cmd ∧ t.ptr = s.ptr ∧ t.len = s.len ∧ t.initOk = s.initOk ∧ t.txrdy = s.txrdy ∧
    t.uart = s.uart ∧ t.resets = s.resets ∧ t.host = s.host ∧ t.seen = s.seen ∧
    lastPortEvent t.history = lastPortEvent s.history ∧
    (i ≠ .print → t.cursorX = s.cursorX ∧ t.cursorY = s.cursorY) ∧
    (i = .clear ∨ t.state ≠ .fault → t.faultCode = s.faultCode ∧ t.faultCmd = s.faultCmd)

/-- What a step of any command leaves of memory (20_memory R65, R68): where it stores, the byte stored to reads as the
byte stored and every other byte as before; where it stores nothing, every byte reads as before. -/
def Obligations.StepsStoreAtMostOneByte : Prop :=
  ∀ (i : Instr) (s t : State), exec i s = .next t →
    (∀ a v, nextAccess i s = some (.memWrite a v) →
      inFb s.params a = true ∧ t.byteAt a = v ∧ ∀ b, b ≠ a → t.byteAt b = s.byteAt b) ∧
    (storedAddr i s = none → ∀ b, t.byteAt b = s.byteAt b)

/-! ### BOOT -/

/-- 42_boot R170, one step of BOOT through ClearBody and InitBody: each access (those of
InitBody as INIT makes them), and the turn to the next phase. -/
def Obligations.BootClearsThenInitializes : Prop :=
  ∀ (s : State) (c : Nat),
    let p := s.params
    (c < cells p → s.seq = .bootClear (.char c) ∨ (s.seq = .empty ∧ c = 0) →
      exec .boot s = .next { s.afterMemWrite (p.vgaBase + 2 * c) 0x00#8 with seq := .bootClear (.attr c) }) ∧
    (c < cells p → s.seq = .bootClear (.attr c) →
      exec .boot s = .next { s.afterMemWrite (p.vgaBase + 2 * c + 1) 0x00#8 with
        seq := if c + 1 < cells p then .bootClear (.char (c + 1)) else .bootInit .ier }) ∧
    (s.seq = .bootInit .ier →
      exec .boot s = .next { s.afterPortWrite .intEnable p.ierOff with seq := .bootInit .lcrDlab }) ∧
    (∀ (q q' : InitPt) (t : State), s.seq = .bootInit q → q ≠ .rbr → q ≠ .mcrFinal →
      exec .init { s with seq := .init q } = .next t → t.seq = .init q' →
      exec .boot s = .next { t with seq := .bootInit q' }) ∧
    (s.seq = .bootInit .thr →
      exec .boot s = .next { s.afterPortWrite .data p.testByte with seq := .bootInit .rbr }) ∧
    (s.seq = .bootInit .rbr → s.portAnswer .data = p.testByte →
      exec .boot s = .next { s.afterPortRead .data with seq := .bootInit .mcrFinal }) ∧
    (s.seq = .bootInit .rbr → s.portAnswer .data ≠ p.testByte →
      exec .boot s = .next { s.afterPortRead .data with initOk := false, seq := .bootFill (.char 0) }) ∧
    (∀ b rest, s.seq = .bootInit .mcrFinal → p.bootMsg = b :: rest → b ≠ 0#8 →
      exec .boot s = .next { s.afterPortWrite .modemControl p.mcrFinal with
        initOk := true, seq := .bootPrint (.char 0 0 s.cursorY.toNat b) }) ∧
    (s.seq = .bootInit .mcrFinal → p.bootMsg = [] → s.cursorY.toNat < p.rows →
      exec .boot s = .next { s.afterPortWrite .modemControl p.mcrFinal with
        initOk := true, cursorX := 0#8, cursorY := BitVec.ofNat 8 ((s.cursorY.toNat + 1) % p.rows),
        seq := .bootSend .pollCr })

/-- 42_boot R170 and 41_console R138, R132, one step of BOOT through its PanicBody and its PrintBody: each access, the
turn to the next phase, the text from Rom without an access of its own (20_memory R64). PANIC_MSG begins at cell `k0`,
1000 under R6's literals; after its last character comes BOOT_MSG, or, where that is empty, the row advance of the empty
print and the polls of SendBody's CR LF. -/
def Obligations.BootPanicsThenPrints : Prop :=
  ∀ (s : State) (c i col row : Nat) (b : Byte),
    let p := s.params
    let k0 := p.panicRow * p.cols + p.panicCol
    let colNext := (col + 1) % p.cols
    let rowNext := if col + 1 = p.cols then (row + 1) % p.rows else row
    (c < cells p → s.seq = .bootFill (.char c) →
      exec .boot s = .next { s.afterMemWrite (p.vgaBase + 2 * c) p.panicFillChar with seq := .bootFill (.attr c) }) ∧
    (c + 1 < cells p → s.seq = .bootFill (.attr c) →
      exec .boot s = .next { s.afterMemWrite (p.vgaBase + 2 * c + 1) p.panicAttr with
        seq := .bootFill (.char (c + 1)) }) ∧
    (∀ m rest, c + 1 = cells p → s.seq = .bootFill (.attr c) → p.panicCol < p.cols → p.panicRow < p.rows →
      p.panicMsg = m :: rest → m ≠ 0#8 →
      exec .boot s = .next { s.afterMemWrite (p.vgaBase + 2 * c + 1) p.panicAttr with
        seq := .bootMsg (.char k0 0 m) }) ∧
    (c + 1 < cells p → i + 1 < p.panicMsg.length → p.panicMsg.getD (i + 1) 0#8 ≠ 0#8 →
      s.seq = .bootMsg (.char c i b) →
      exec .boot s = .next { s.afterMemWrite (p.vgaBase + 2 * c) b with
        seq := .bootMsg (.char (c + 1) (i + 1) (p.panicMsg.getD (i + 1) 0#8)) }) ∧
    (∀ b' rest, c < cells p → i + 1 = p.panicMsg.length → s.seq = .bootMsg (.char c i b) →
      p.bootMsg = b' :: rest → b' ≠ 0#8 →
      exec .boot s = .next { s.afterMemWrite (p.vgaBase + 2 * c) b with
        seq := .bootPrint (.char 0 0 s.cursorY.toNat b') }) ∧
    (c < cells p → i + 1 = p.panicMsg.length → s.seq = .bootMsg (.char c i b) → p.bootMsg = [] →
      s.cursorY.toNat < p.rows →
      exec .boot s = .next { s.afterMemWrite (p.vgaBase + 2 * c) b with
        cursorX := 0#8
        cursorY := BitVec.ofNat 8 ((s.cursorY.toNat + 1) % p.rows)
        seq := .bootSend .pollCr }) ∧
    (s.seq = .bootPrint (.char i col row b) → col < p.cols → row < p.rows →
      exec .boot s = .next { s.afterMemWrite (p.vgaBase + 2 * (row * p.cols + col)) b with
        seq := .bootPrint (.attr i col row) }) ∧
    (s.seq = .bootPrint (.attr i col row) → col < p.cols → row < p.rows → i + 1 < p.bootMsg.length →
      p.bootMsg.getD (i + 1) 0#8 ≠ 0#8 →
      exec .boot s = .next { s.afterMemWrite (p.vgaBase + 2 * (row * p.cols + col) + 1) p.printAttr with
        cursorX := BitVec.ofNat 8 colNext
        cursorY := BitVec.ofNat 8 rowNext
        seq := .bootPrint (.char (i + 1) colNext rowNext (p.bootMsg.getD (i + 1) 0#8)) }) ∧
    (s.seq = .bootPrint (.attr i col row) → col < p.cols → row < p.rows → i + 1 = p.bootMsg.length →
      exec .boot s = .next { s.afterMemWrite (p.vgaBase + 2 * (row * p.cols + col) + 1) p.printAttr with
        cursorX := 0#8
        cursorY := BitVec.ofNat 8 ((rowNext + 1) % p.rows)
        seq := .bootSend (.poll 0) })

/-- 42_boot R170, one step of BOOT through SendBody to its end: STATE <- DONE. -/
def Obligations.BootSendsThenIsDone : Prop :=
  ∀ (s : State) (i : Nat),
    let v := s.portAnswer .lineStatus
    (s.seq = .bootSend (.poll i) →
      exec .boot s = .next { s.afterPortRead .lineStatus with
        seq := .bootSend (if v &&& s.params.threMask = 0#8 then .poll i
          else .write i (s.params.bootMsg.getD i 0#8)) }) ∧
    (∀ b, s.seq = .bootSend (.write i b) →
      exec .boot s = .next { s.afterPortWrite .data b with
        seq := .bootSend (if i + 1 < s.params.bootMsg.length then .poll (i + 1) else .pollCr) }) ∧
    (s.seq = .bootSend .pollCr →
      exec .boot s = .next { s.afterPortRead .lineStatus with
        seq := .bootSend (if v &&& s.params.threMask = 0#8 then .pollCr else .writeCr) }) ∧
    (s.seq = .bootSend .writeCr →
      exec .boot s = .next { s.afterPortWrite .data s.params.carriageReturn with seq := .bootSend .pollLf }) ∧
    (s.seq = .bootSend .pollLf →
      exec .boot s = .next { s.afterPortRead .lineStatus with
        seq := .bootSend (if v &&& s.params.threMask = 0#8 then .pollLf else .writeLf) }) ∧
    (s.seq = .bootSend .writeLf →
      exec .boot s = .next { s.afterPortWrite .data s.params.lineFeed with state := .done, seq := .empty })

/-- 42_boot R174: BOOT raises no fault. In every state that meets the invariant of the block a step of BOOT answers a next
state that is not FAULT. -/
def Obligations.BootRaisesNoFault : Prop :=
  ∀ s : State, Inv s → s.state = .busy → s.host = [] → decode s.cmd = .command .boot →
    ∃ t, step s = .next t ∧ (t.state = .busy ∨ t.state = .done) ∧ t.faultCode = s.faultCode

/-- 42_boot R175: what a BOOT from reset leaves whose readback differs from TEST_BYTE (0x55), with n = len(BOOT_MSG) <=
CELLS (2000) and every poll ready at once; and that every cell has PANIC_ATTR (0x1F) at the end of PanicBody, but at the
end of BOOT only when n = 0, since PRINT_ATTR (0x0F) differs from it. PANIC_MSG stands from cell `k`, 1000, on, and its
11 bytes end at 1010. -/
def Obligations.BootAfterAFailedSelfTest : Prop :=
  ∀ (s : State) (v : Byte) (ready : Nat → Byte) (rest : List Byte),
    let p := s.params
    let msg := p.bootMsg
    let n := msg.length
    let k := panicCell p
    let toPanicEnd := fbBytes p + 10 + fbBytes p + p.panicMsg.length
    Started s .boot → paramsValid p → p.panicAttr ≠ p.printAttr → s.cursorX = 0#8 → s.cursorY = 0#8 → n ≤ cells p →
    s.uart.mode = .oracle → s.uart.answers = v :: ((List.range (n + 2)).map ready ++ rest) → v ≠ p.testByte →
    (∀ j, j < n + 2 → ready j &&& p.threMask ≠ 0#8) →
    (∃ u, stepN toPanicEnd s = .next u ∧ ∀ c, c < cells p → u.byteAt (p.vgaBase + 2 * c + 1) = p.panicAttr) ∧
    ∃ t, stepN (toPanicEnd + 2 * n + (2 * n + 4)) s = .next t ∧ t.state = .done ∧ t.initOk = false ∧
      ((∀ c, c < cells p → t.byteAt (p.vgaBase + 2 * c + 1) = p.panicAttr) ↔ n = 0) ∧
      t.cursorX = 0#8 ∧ t.cursorY = BitVec.ofNat 8 ((n / p.cols + 1) % p.rows) ∧
      (∀ c, c < n → t.byteAt (p.vgaBase + 2 * c) = msg.getD c 0#8 ∧
        t.byteAt (p.vgaBase + 2 * c + 1) = p.printAttr) ∧
      (∀ c, n ≤ c → k ≤ c → c < k + p.panicMsg.length →
        t.byteAt (p.vgaBase + 2 * c) = p.panicMsg.getD (c - k) 0#8 ∧
        t.byteAt (p.vgaBase + 2 * c + 1) = p.panicAttr) ∧
      (∀ c, n ≤ c → c < cells p → c < k ∨ k + p.panicMsg.length ≤ c →
        t.byteAt (p.vgaBase + 2 * c) = p.panicFillChar ∧ t.byteAt (p.vgaBase + 2 * c + 1) = p.panicAttr)

/-- 42_boot R170, the other way round: what a BOOT from reset leaves whose self-test passes, with n = len(BOOT_MSG) <=
CELLS (2000) and every poll ready at once: the message on a blank screen, INIT_OK, DONE. -/
def Obligations.BootAfterAPassedSelfTest : Prop :=
  ∀ (s : State) (ready : Nat → Byte) (rest : List Byte),
    let p := s.params
    let msg := p.bootMsg
    let n := msg.length
    Started s .boot → paramsValid p → s.cursorY = 0#8 → n ≤ cells p → s.uart.mode = .oracle →
    s.uart.answers = p.testByte :: ((List.range (n + 2)).map ready ++ rest) →
    (∀ j, j < n + 2 → ready j &&& p.threMask ≠ 0#8) →
    ∃ t, stepN (fbBytes p + 11 + 2 * n + (2 * n + 4)) s = .next t ∧ t.state = .done ∧ t.initOk = true ∧
      t.faultCode = s.faultCode ∧ t.cursorX = 0#8 ∧ t.cursorY = BitVec.ofNat 8 ((n / p.cols + 1) % p.rows) ∧
      t.uart.answers = rest ∧
      (∀ c, c < n → t.byteAt (p.vgaBase + 2 * c) = msg.getD c 0#8 ∧
        t.byteAt (p.vgaBase + 2 * c + 1) = p.printAttr) ∧
      (∀ c, n ≤ c → c < cells p → t.byteAt (p.vgaBase + 2 * c) = 0x00#8 ∧
        t.byteAt (p.vgaBase + 2 * c + 1) = 0x00#8) ∧
      (∀ a, inFb p a = false → t.byteAt a = s.byteAt a)

/-- What a step of BOOT leaves alone (42_boot R170; 10_state R23, R25): the command registers, TXRDY, the host's side;
INIT_OK but at the end of its InitBody; FAULT_CODE and FAULT_CMD where no fault is raised. -/
def Obligations.BootFrame : Prop :=
  ∀ s t : State, exec .boot s = .next t →
    t.params = s.params ∧ t.cmd = s.cmd ∧ t.ptr = s.ptr ∧ t.len = s.len ∧ t.txrdy = s.txrdy ∧
    t.resets = s.resets ∧ t.host = s.host ∧ t.seen = s.seen ∧
    (s.seq ≠ .bootInit .rbr → s.seq ≠ .bootInit .mcrFinal → t.initOk = s.initOk) ∧
    (t.state ≠ .fault → t.faultCode = s.faultCode ∧ t.faultCmd = s.faultCmd) ∧
    ((∀ p, s.seq ≠ .bootInit p) → (∀ p, s.seq ≠ .bootSend p) → t.uart = s.uart)

/-! ### The whole machine -/

/-- 10_state R25: only PRINT and the Print phase of BOOT write CURSOR; no other command does, and no host move but
reset. -/
def Obligations.CursorWrittenOnlyByPrint : Prop :=
  ∀ s t : State, step s = .next t → (t.cursorX ≠ s.cursorX ∨ t.cursorY ≠ s.cursorY) →
    (∃ rest, s.host = .reset :: rest) ∨
    (s.state = .busy ∧ decode s.cmd = .command .print) ∨
    (s.state = .busy ∧ decode s.cmd = .command .boot ∧
      (inPrint s.seq ∨ (s.params.bootMsg.getD 0 0#8 = 0#8 ∧ ∃ p, t.seq = .bootSend p)))

/-- 10_state R23 (D36): INIT_OK is written only by INIT and BOOT, TXRDY only by TXRDY, both cleared by reset; the
parameters are never written. -/
def Obligations.FlagsHaveTheirWriters : Prop :=
  ∀ s t : State, step s = .next t →
    t.params = s.params ∧
    (t.initOk ≠ s.initOk → (∃ rest, s.host = .reset :: rest) ∨
      (s.state = .busy ∧ (decode s.cmd = .command .init ∨ decode s.cmd = .command .boot))) ∧
    (t.txrdy ≠ s.txrdy → (∃ rest, s.host = .reset :: rest) ∨ (s.state = .busy ∧ decode s.cmd = .command .txrdy))

/-- 10_state R26: FAULT_CMD is a copy of CMD taken when the ENGINE enters FAULT, 0 at reset, written at no other time. -/
def Obligations.FaultCmdHoldsTheFaultingWord : Prop :=
  State.reset.faultCmd = 0#32 ∧
  ∀ s t : State, step s = .next t →
    (s.state ≠ .fault → t.state = .fault → t.faultCmd = s.cmd) ∧
    (t.faultCmd ≠ s.faultCmd →
      ((∃ rest, s.host = .reset :: rest) ∧ t.faultCmd = 0#32) ∨ (s.state = .busy ∧ t.state = .fault))

/-- 00_scope R6 and 93 I1: the document's literals are the values `State.reset` gives the parameters that hold them (log
17), and R6's own equations and the coordinates of the panic message follow. -/
def Obligations.LiteralsAreTheDocuments : Prop :=
  let p := State.reset.params
  p.cols = 80 ∧ p.rows = 25 ∧ cells p = 2000 ∧ fbBytes p = 4000 ∧ p.printAttr = 0x0F#8 ∧ p.panicAttr = 0x1F#8 ∧
  p.panicCol = 40 ∧ p.panicRow = 12 ∧ panicCell p = 1000 ∧ p.panicMsg.length = 11 ∧ p.testByte = 0x55#8 ∧
  divisorLow p = 0x01#8 ∧ divisorHigh p = 0x00#8 ∧ baudRate p p.divisor.bits.toNat = some 115200 ∧
  p.carriageReturn = 0x0D#8 ∧ p.lineFeed = 0x0A#8 ∧ paramsValid p

/-- The state after reset meets the invariant. -/
def Obligations.ResetMeetsTheInvariant : Prop := Inv State.reset

/-- The invariant of the block (10_state R21, R24, R26; 20_memory R61; 41_console R143, R144; 60_exceptions R182):
every step, of the ENGINE and of the host, keeps it. -/
def Obligations.EveryStepKeepsTheInvariant : Prop :=
  ∀ s t : State, Inv s → step s = .next t → Inv t

/-- 60_exceptions R190: BUSY is never an end. In every state that meets the invariant, whatever the host's next move, if
it has one, as long as that move breaks no duty and uses only the liberties granted (70_reset R225), a running command has
a next step: none of the model's own stops is reached from BUSY but by such a move of the host. -/
def Obligations.BusyAlwaysHasANextStep : Prop :=
  ∀ s : State, Inv s → s.state = .busy → (∀ m rest, s.host = m :: rest → hostMayWhileBusy s.params m) →
    ∃ t, step s = .next t

/-- 20_memory R65: the ENGINE issues MemWrite only to addresses inside FB, CELL(c) or CELL(c)+1 with c < CELLS (2000), and the
byte written is what the address then holds. -/
def Obligations.WritesStayInTheFramebuffer : Prop :=
  ∀ (s : State) (i : Instr) (a : Nat) (v : Byte), Inv s → s.state = .busy → decode s.cmd = .command i →
    nextAccess i s = some (.memWrite a v) →
    (∃ c, c < cells s.params ∧ (a = s.params.vgaBase + 2 * c ∨ a = s.params.vgaBase + 2 * c + 1)) ∧
    ∃ t, exec i s = .next t ∧ t.byteAt a = v

/-- 41_console R143: from a state that meets the invariant, after any step CURSOR_X = 0 whenever STATE = IDLE or DONE; it
differs from 0 only inside a running PRINT or BOOT, or in FAULT after a PRINT faulted. CURSOR stays on the screen
(10_state R24). -/
def Obligations.CursorColumnIsZeroBetweenCommands : Prop :=
  ∀ s t : State, Inv s → step s = .next t →
    t.cursorX.toNat < t.params.cols ∧ t.cursorY.toNat < t.params.rows ∧ (t.state = .idle ∨ t.state = .done → t.cursorX = 0#8) ∧
    (t.cursorX ≠ 0#8 →
      (t.state = .fault ∧ decode t.faultCmd = .command .print) ∨
      (t.state = .busy ∧ (decode t.cmd = .command .print ∨ decode t.cmd = .command .boot)))

/-! ### The divisor -/

/-- 10_state R49, 40_uart R103 step 3, R106: InitBody, in INIT and in BOOT, writes the low byte of DIVISOR and then the
high byte, and DIVISOR is never 0, whatever the parameters; on the reference device with DLAB set the latches then hold it,
a valid divisor, and the rate is BASE_CLOCK / DIVISOR. -/
def Obligations.InitProgramsAValidDivisor : Prop :=
  ∀ s : State,
    (s.seq = .init .dll →
      ∃ u t, exec .init s = .next u ∧ exec .init u = .next t ∧ t.seq = .init .lcr8n1 ∧ ProgramsDivisor s t) ∧
    (s.seq = .bootInit .dll →
      ∃ u t, exec .boot s = .next u ∧ exec .boot u = .next t ∧ t.seq = .bootInit .lcr8n1 ∧ ProgramsDivisor s t)
end

