-- ==== Sys2Proof/Laws/State.lean ====
section
/-! SUPPORT. The small lemmas of every update of the state: one for each field and update, so that no later proof
unfolds a record update. -/

namespace Sys2Proof.Machine

/-! ### One more event -/

@[simp] theorem State.record_params (s : State) (e : Event) : (s.record e).params = s.params := rfl
@[simp] theorem State.record_cmd (s : State) (e : Event) : (s.record e).cmd = s.cmd := rfl
@[simp] theorem State.record_ptr (s : State) (e : Event) : (s.record e).ptr = s.ptr := rfl
@[simp] theorem State.record_len (s : State) (e : Event) : (s.record e).len = s.len := rfl
@[simp] theorem State.record_state (s : State) (e : Event) : (s.record e).state = s.state := rfl
@[simp] theorem State.record_initOk (s : State) (e : Event) : (s.record e).initOk = s.initOk := rfl
@[simp] theorem State.record_txrdy (s : State) (e : Event) : (s.record e).txrdy = s.txrdy := rfl
@[simp] theorem State.record_faultCode (s : State) (e : Event) : (s.record e).faultCode = s.faultCode := rfl
@[simp] theorem State.record_cursorX (s : State) (e : Event) : (s.record e).cursorX = s.cursorX := rfl
@[simp] theorem State.record_cursorY (s : State) (e : Event) : (s.record e).cursorY = s.cursorY := rfl
@[simp] theorem State.record_faultCmd (s : State) (e : Event) : (s.record e).faultCmd = s.faultCmd := rfl
@[simp] theorem State.record_seq (s : State) (e : Event) : (s.record e).seq = s.seq := rfl
@[simp] theorem State.record_mem (s : State) (e : Event) : (s.record e).mem = s.mem := rfl
@[simp] theorem State.record_uart (s : State) (e : Event) : (s.record e).uart = s.uart := rfl
@[simp] theorem State.record_history (s : State) (e : Event) : (s.record e).history = e :: s.history := rfl
@[simp] theorem State.record_resets (s : State) (e : Event) : (s.record e).resets = s.resets := rfl
@[simp] theorem State.record_host (s : State) (e : Event) : (s.record e).host = s.host := rfl
@[simp] theorem State.record_seen (s : State) (e : Event) : (s.record e).seen = s.seen := rfl

/-! ### SEQ -/

@[simp] theorem State.setSeq_params (s : State) (q : Seq) : (s.setSeq q).params = s.params := rfl
@[simp] theorem State.setSeq_cmd (s : State) (q : Seq) : (s.setSeq q).cmd = s.cmd := rfl
@[simp] theorem State.setSeq_ptr (s : State) (q : Seq) : (s.setSeq q).ptr = s.ptr := rfl
@[simp] theorem State.setSeq_len (s : State) (q : Seq) : (s.setSeq q).len = s.len := rfl
@[simp] theorem State.setSeq_state (s : State) (q : Seq) : (s.setSeq q).state = s.state := rfl
@[simp] theorem State.setSeq_initOk (s : State) (q : Seq) : (s.setSeq q).initOk = s.initOk := rfl
@[simp] theorem State.setSeq_txrdy (s : State) (q : Seq) : (s.setSeq q).txrdy = s.txrdy := rfl
@[simp] theorem State.setSeq_faultCode (s : State) (q : Seq) : (s.setSeq q).faultCode = s.faultCode := rfl
@[simp] theorem State.setSeq_cursorX (s : State) (q : Seq) : (s.setSeq q).cursorX = s.cursorX := rfl
@[simp] theorem State.setSeq_cursorY (s : State) (q : Seq) : (s.setSeq q).cursorY = s.cursorY := rfl
@[simp] theorem State.setSeq_faultCmd (s : State) (q : Seq) : (s.setSeq q).faultCmd = s.faultCmd := rfl
@[simp] theorem State.setSeq_seq (s : State) (q : Seq) : (s.setSeq q).seq = q := rfl
@[simp] theorem State.setSeq_mem (s : State) (q : Seq) : (s.setSeq q).mem = s.mem := rfl
@[simp] theorem State.setSeq_uart (s : State) (q : Seq) : (s.setSeq q).uart = s.uart := rfl
@[simp] theorem State.setSeq_history (s : State) (q : Seq) : (s.setSeq q).history = s.history := rfl
@[simp] theorem State.setSeq_resets (s : State) (q : Seq) : (s.setSeq q).resets = s.resets := rfl
@[simp] theorem State.setSeq_host (s : State) (q : Seq) : (s.setSeq q).host = s.host := rfl
@[simp] theorem State.setSeq_seen (s : State) (q : Seq) : (s.setSeq q).seen = s.seen := rfl

/-! ### The UART -/

@[simp] theorem State.setUart_params (s : State) (u : Uart) : (s.setUart u).params = s.params := rfl
@[simp] theorem State.setUart_cmd (s : State) (u : Uart) : (s.setUart u).cmd = s.cmd := rfl
@[simp] theorem State.setUart_ptr (s : State) (u : Uart) : (s.setUart u).ptr = s.ptr := rfl
@[simp] theorem State.setUart_len (s : State) (u : Uart) : (s.setUart u).len = s.len := rfl
@[simp] theorem State.setUart_state (s : State) (u : Uart) : (s.setUart u).state = s.state := rfl
@[simp] theorem State.setUart_initOk (s : State) (u : Uart) : (s.setUart u).initOk = s.initOk := rfl
@[simp] theorem State.setUart_txrdy (s : State) (u : Uart) : (s.setUart u).txrdy = s.txrdy := rfl
@[simp] theorem State.setUart_faultCode (s : State) (u : Uart) : (s.setUart u).faultCode = s.faultCode := rfl
@[simp] theorem State.setUart_cursorX (s : State) (u : Uart) : (s.setUart u).cursorX = s.cursorX := rfl
@[simp] theorem State.setUart_cursorY (s : State) (u : Uart) : (s.setUart u).cursorY = s.cursorY := rfl
@[simp] theorem State.setUart_faultCmd (s : State) (u : Uart) : (s.setUart u).faultCmd = s.faultCmd := rfl
@[simp] theorem State.setUart_seq (s : State) (u : Uart) : (s.setUart u).seq = s.seq := rfl
@[simp] theorem State.setUart_mem (s : State) (u : Uart) : (s.setUart u).mem = s.mem := rfl
@[simp] theorem State.setUart_uart (s : State) (u : Uart) : (s.setUart u).uart = u := rfl
@[simp] theorem State.setUart_history (s : State) (u : Uart) : (s.setUart u).history = s.history := rfl
@[simp] theorem State.setUart_resets (s : State) (u : Uart) : (s.setUart u).resets = s.resets := rfl
@[simp] theorem State.setUart_host (s : State) (u : Uart) : (s.setUart u).host = s.host := rfl
@[simp] theorem State.setUart_seen (s : State) (u : Uart) : (s.setUart u).seen = s.seen := rfl

/-! ### Memory -/

@[simp] theorem State.setMem_params (s : State) (m : List Host.Cell) : (s.setMem m).params = s.params := rfl
@[simp] theorem State.setMem_cmd (s : State) (m : List Host.Cell) : (s.setMem m).cmd = s.cmd := rfl
@[simp] theorem State.setMem_ptr (s : State) (m : List Host.Cell) : (s.setMem m).ptr = s.ptr := rfl
@[simp] theorem State.setMem_len (s : State) (m : List Host.Cell) : (s.setMem m).len = s.len := rfl
@[simp] theorem State.setMem_state (s : State) (m : List Host.Cell) : (s.setMem m).state = s.state := rfl
@[simp] theorem State.setMem_initOk (s : State) (m : List Host.Cell) : (s.setMem m).initOk = s.initOk := rfl
@[simp] theorem State.setMem_txrdy (s : State) (m : List Host.Cell) : (s.setMem m).txrdy = s.txrdy := rfl
@[simp] theorem State.setMem_faultCode (s : State) (m : List Host.Cell) : (s.setMem m).faultCode = s.faultCode := rfl
@[simp] theorem State.setMem_cursorX (s : State) (m : List Host.Cell) : (s.setMem m).cursorX = s.cursorX := rfl
@[simp] theorem State.setMem_cursorY (s : State) (m : List Host.Cell) : (s.setMem m).cursorY = s.cursorY := rfl
@[simp] theorem State.setMem_faultCmd (s : State) (m : List Host.Cell) : (s.setMem m).faultCmd = s.faultCmd := rfl
@[simp] theorem State.setMem_seq (s : State) (m : List Host.Cell) : (s.setMem m).seq = s.seq := rfl
@[simp] theorem State.setMem_mem (s : State) (m : List Host.Cell) : (s.setMem m).mem = m := rfl
@[simp] theorem State.setMem_uart (s : State) (m : List Host.Cell) : (s.setMem m).uart = s.uart := rfl
@[simp] theorem State.setMem_history (s : State) (m : List Host.Cell) : (s.setMem m).history = s.history := rfl
@[simp] theorem State.setMem_resets (s : State) (m : List Host.Cell) : (s.setMem m).resets = s.resets := rfl
@[simp] theorem State.setMem_host (s : State) (m : List Host.Cell) : (s.setMem m).host = s.host := rfl
@[simp] theorem State.setMem_seen (s : State) (m : List Host.Cell) : (s.setMem m).seen = s.seen := rfl

/-! ### The host's script -/

@[simp] theorem State.setHost_params (s : State) (h : List HostMove) : (s.setHost h).params = s.params := rfl
@[simp] theorem State.setHost_cmd (s : State) (h : List HostMove) : (s.setHost h).cmd = s.cmd := rfl
@[simp] theorem State.setHost_ptr (s : State) (h : List HostMove) : (s.setHost h).ptr = s.ptr := rfl
@[simp] theorem State.setHost_len (s : State) (h : List HostMove) : (s.setHost h).len = s.len := rfl
@[simp] theorem State.setHost_state (s : State) (h : List HostMove) : (s.setHost h).state = s.state := rfl
@[simp] theorem State.setHost_initOk (s : State) (h : List HostMove) : (s.setHost h).initOk = s.initOk := rfl
@[simp] theorem State.setHost_txrdy (s : State) (h : List HostMove) : (s.setHost h).txrdy = s.txrdy := rfl
@[simp] theorem State.setHost_faultCode (s : State) (h : List HostMove) : (s.setHost h).faultCode = s.faultCode := rfl
@[simp] theorem State.setHost_cursorX (s : State) (h : List HostMove) : (s.setHost h).cursorX = s.cursorX := rfl
@[simp] theorem State.setHost_cursorY (s : State) (h : List HostMove) : (s.setHost h).cursorY = s.cursorY := rfl
@[simp] theorem State.setHost_faultCmd (s : State) (h : List HostMove) : (s.setHost h).faultCmd = s.faultCmd := rfl
@[simp] theorem State.setHost_seq (s : State) (h : List HostMove) : (s.setHost h).seq = s.seq := rfl
@[simp] theorem State.setHost_mem (s : State) (h : List HostMove) : (s.setHost h).mem = s.mem := rfl
@[simp] theorem State.setHost_uart (s : State) (h : List HostMove) : (s.setHost h).uart = s.uart := rfl
@[simp] theorem State.setHost_history (s : State) (h : List HostMove) : (s.setHost h).history = s.history := rfl
@[simp] theorem State.setHost_resets (s : State) (h : List HostMove) : (s.setHost h).resets = s.resets := rfl
@[simp] theorem State.setHost_host (s : State) (h : List HostMove) : (s.setHost h).host = h := rfl
@[simp] theorem State.setHost_seen (s : State) (h : List HostMove) : (s.setHost h).seen = s.seen := rfl

/-! ### CURSOR -/

@[simp] theorem State.setCursor_params (s : State) (x y : Nat) : (s.setCursor x y).params = s.params := rfl
@[simp] theorem State.setCursor_cmd (s : State) (x y : Nat) : (s.setCursor x y).cmd = s.cmd := rfl
@[simp] theorem State.setCursor_ptr (s : State) (x y : Nat) : (s.setCursor x y).ptr = s.ptr := rfl
@[simp] theorem State.setCursor_len (s : State) (x y : Nat) : (s.setCursor x y).len = s.len := rfl
@[simp] theorem State.setCursor_state (s : State) (x y : Nat) : (s.setCursor x y).state = s.state := rfl
@[simp] theorem State.setCursor_initOk (s : State) (x y : Nat) : (s.setCursor x y).initOk = s.initOk := rfl
@[simp] theorem State.setCursor_txrdy (s : State) (x y : Nat) : (s.setCursor x y).txrdy = s.txrdy := rfl
@[simp] theorem State.setCursor_faultCode (s : State) (x y : Nat) : (s.setCursor x y).faultCode = s.faultCode := rfl
@[simp] theorem State.setCursor_cursorX (s : State) (x y : Nat) : (s.setCursor x y).cursorX = BitVec.ofNat 8 x := rfl
@[simp] theorem State.setCursor_cursorY (s : State) (x y : Nat) : (s.setCursor x y).cursorY = BitVec.ofNat 8 y := rfl
@[simp] theorem State.setCursor_faultCmd (s : State) (x y : Nat) : (s.setCursor x y).faultCmd = s.faultCmd := rfl
@[simp] theorem State.setCursor_seq (s : State) (x y : Nat) : (s.setCursor x y).seq = s.seq := rfl
@[simp] theorem State.setCursor_mem (s : State) (x y : Nat) : (s.setCursor x y).mem = s.mem := rfl
@[simp] theorem State.setCursor_uart (s : State) (x y : Nat) : (s.setCursor x y).uart = s.uart := rfl
@[simp] theorem State.setCursor_history (s : State) (x y : Nat) : (s.setCursor x y).history = s.history := rfl
@[simp] theorem State.setCursor_resets (s : State) (x y : Nat) : (s.setCursor x y).resets = s.resets := rfl
@[simp] theorem State.setCursor_host (s : State) (x y : Nat) : (s.setCursor x y).host = s.host := rfl
@[simp] theorem State.setCursor_seen (s : State) (x y : Nat) : (s.setCursor x y).seen = s.seen := rfl

/-! ### STATUS.INIT_OK -/

@[simp] theorem State.setInitOk_params (s : State) (ok : Bool) : (s.setInitOk ok).params = s.params := rfl
@[simp] theorem State.setInitOk_cmd (s : State) (ok : Bool) : (s.setInitOk ok).cmd = s.cmd := rfl
@[simp] theorem State.setInitOk_ptr (s : State) (ok : Bool) : (s.setInitOk ok).ptr = s.ptr := rfl
@[simp] theorem State.setInitOk_len (s : State) (ok : Bool) : (s.setInitOk ok).len = s.len := rfl
@[simp] theorem State.setInitOk_state (s : State) (ok : Bool) : (s.setInitOk ok).state = s.state := rfl
@[simp] theorem State.setInitOk_initOk (s : State) (ok : Bool) : (s.setInitOk ok).initOk = ok := rfl
@[simp] theorem State.setInitOk_txrdy (s : State) (ok : Bool) : (s.setInitOk ok).txrdy = s.txrdy := rfl
@[simp] theorem State.setInitOk_faultCode (s : State) (ok : Bool) : (s.setInitOk ok).faultCode = s.faultCode := rfl
@[simp] theorem State.setInitOk_cursorX (s : State) (ok : Bool) : (s.setInitOk ok).cursorX = s.cursorX := rfl
@[simp] theorem State.setInitOk_cursorY (s : State) (ok : Bool) : (s.setInitOk ok).cursorY = s.cursorY := rfl
@[simp] theorem State.setInitOk_faultCmd (s : State) (ok : Bool) : (s.setInitOk ok).faultCmd = s.faultCmd := rfl
@[simp] theorem State.setInitOk_seq (s : State) (ok : Bool) : (s.setInitOk ok).seq = s.seq := rfl
@[simp] theorem State.setInitOk_mem (s : State) (ok : Bool) : (s.setInitOk ok).mem = s.mem := rfl
@[simp] theorem State.setInitOk_uart (s : State) (ok : Bool) : (s.setInitOk ok).uart = s.uart := rfl
@[simp] theorem State.setInitOk_history (s : State) (ok : Bool) : (s.setInitOk ok).history = s.history := rfl
@[simp] theorem State.setInitOk_resets (s : State) (ok : Bool) : (s.setInitOk ok).resets = s.resets := rfl
@[simp] theorem State.setInitOk_host (s : State) (ok : Bool) : (s.setInitOk ok).host = s.host := rfl
@[simp] theorem State.setInitOk_seen (s : State) (ok : Bool) : (s.setInitOk ok).seen = s.seen := rfl

/-! ### STATUS.TXRDY -/

@[simp] theorem State.setTxrdy_params (s : State) (b : Bool) : (s.setTxrdy b).params = s.params := rfl
@[simp] theorem State.setTxrdy_cmd (s : State) (b : Bool) : (s.setTxrdy b).cmd = s.cmd := rfl
@[simp] theorem State.setTxrdy_ptr (s : State) (b : Bool) : (s.setTxrdy b).ptr = s.ptr := rfl
@[simp] theorem State.setTxrdy_len (s : State) (b : Bool) : (s.setTxrdy b).len = s.len := rfl
@[simp] theorem State.setTxrdy_state (s : State) (b : Bool) : (s.setTxrdy b).state = s.state := rfl
@[simp] theorem State.setTxrdy_initOk (s : State) (b : Bool) : (s.setTxrdy b).initOk = s.initOk := rfl
@[simp] theorem State.setTxrdy_txrdy (s : State) (b : Bool) : (s.setTxrdy b).txrdy = b := rfl
@[simp] theorem State.setTxrdy_faultCode (s : State) (b : Bool) : (s.setTxrdy b).faultCode = s.faultCode := rfl
@[simp] theorem State.setTxrdy_cursorX (s : State) (b : Bool) : (s.setTxrdy b).cursorX = s.cursorX := rfl
@[simp] theorem State.setTxrdy_cursorY (s : State) (b : Bool) : (s.setTxrdy b).cursorY = s.cursorY := rfl
@[simp] theorem State.setTxrdy_faultCmd (s : State) (b : Bool) : (s.setTxrdy b).faultCmd = s.faultCmd := rfl
@[simp] theorem State.setTxrdy_seq (s : State) (b : Bool) : (s.setTxrdy b).seq = s.seq := rfl
@[simp] theorem State.setTxrdy_mem (s : State) (b : Bool) : (s.setTxrdy b).mem = s.mem := rfl
@[simp] theorem State.setTxrdy_uart (s : State) (b : Bool) : (s.setTxrdy b).uart = s.uart := rfl
@[simp] theorem State.setTxrdy_history (s : State) (b : Bool) : (s.setTxrdy b).history = s.history := rfl
@[simp] theorem State.setTxrdy_resets (s : State) (b : Bool) : (s.setTxrdy b).resets = s.resets := rfl
@[simp] theorem State.setTxrdy_host (s : State) (b : Bool) : (s.setTxrdy b).host = s.host := rfl
@[simp] theorem State.setTxrdy_seen (s : State) (b : Bool) : (s.setTxrdy b).seen = s.seen := rfl

/-! ### Fault entry -/

@[simp] theorem State.enterFault_params (s : State) (c : FaultCode) : (s.enterFault c).params = s.params := rfl
@[simp] theorem State.enterFault_cmd (s : State) (c : FaultCode) : (s.enterFault c).cmd = s.cmd := rfl
@[simp] theorem State.enterFault_ptr (s : State) (c : FaultCode) : (s.enterFault c).ptr = s.ptr := rfl
@[simp] theorem State.enterFault_len (s : State) (c : FaultCode) : (s.enterFault c).len = s.len := rfl
@[simp] theorem State.enterFault_state (s : State) (c : FaultCode) : (s.enterFault c).state = .fault := rfl
@[simp] theorem State.enterFault_initOk (s : State) (c : FaultCode) : (s.enterFault c).initOk = s.initOk := rfl
@[simp] theorem State.enterFault_txrdy (s : State) (c : FaultCode) : (s.enterFault c).txrdy = s.txrdy := rfl
@[simp] theorem State.enterFault_faultCode (s : State) (c : FaultCode) : (s.enterFault c).faultCode = some c := rfl
@[simp] theorem State.enterFault_cursorX (s : State) (c : FaultCode) : (s.enterFault c).cursorX = s.cursorX := rfl
@[simp] theorem State.enterFault_cursorY (s : State) (c : FaultCode) : (s.enterFault c).cursorY = s.cursorY := rfl
@[simp] theorem State.enterFault_faultCmd (s : State) (c : FaultCode) : (s.enterFault c).faultCmd = s.cmd := rfl
@[simp] theorem State.enterFault_seq (s : State) (c : FaultCode) : (s.enterFault c).seq = .empty := rfl
@[simp] theorem State.enterFault_mem (s : State) (c : FaultCode) : (s.enterFault c).mem = s.mem := rfl
@[simp] theorem State.enterFault_uart (s : State) (c : FaultCode) : (s.enterFault c).uart = s.uart := rfl
@[simp] theorem State.enterFault_history (s : State) (c : FaultCode) : (s.enterFault c).history = s.history := rfl
@[simp] theorem State.enterFault_resets (s : State) (c : FaultCode) : (s.enterFault c).resets = s.resets := rfl
@[simp] theorem State.enterFault_host (s : State) (c : FaultCode) : (s.enterFault c).host = s.host := rfl
@[simp] theorem State.enterFault_seen (s : State) (c : FaultCode) : (s.enterFault c).seen = s.seen := rfl

/-! ### The end of a command -/

@[simp] theorem State.finish_params (s : State) : s.finish.params = s.params := rfl
@[simp] theorem State.finish_cmd (s : State) : s.finish.cmd = s.cmd := rfl
@[simp] theorem State.finish_ptr (s : State) : s.finish.ptr = s.ptr := rfl
@[simp] theorem State.finish_len (s : State) : s.finish.len = s.len := rfl
@[simp] theorem State.finish_state (s : State) : s.finish.state = .idle := rfl
@[simp] theorem State.finish_initOk (s : State) : s.finish.initOk = s.initOk := rfl
@[simp] theorem State.finish_txrdy (s : State) : s.finish.txrdy = s.txrdy := rfl
@[simp] theorem State.finish_faultCode (s : State) : s.finish.faultCode = s.faultCode := rfl
@[simp] theorem State.finish_cursorX (s : State) : s.finish.cursorX = s.cursorX := rfl
@[simp] theorem State.finish_cursorY (s : State) : s.finish.cursorY = s.cursorY := rfl
@[simp] theorem State.finish_faultCmd (s : State) : s.finish.faultCmd = s.faultCmd := rfl
@[simp] theorem State.finish_seq (s : State) : s.finish.seq = .empty := rfl
@[simp] theorem State.finish_mem (s : State) : s.finish.mem = s.mem := rfl
@[simp] theorem State.finish_uart (s : State) : s.finish.uart = s.uart := rfl
@[simp] theorem State.finish_history (s : State) : s.finish.history = s.history := rfl
@[simp] theorem State.finish_resets (s : State) : s.finish.resets = s.resets := rfl
@[simp] theorem State.finish_host (s : State) : s.finish.host = s.host := rfl
@[simp] theorem State.finish_seen (s : State) : s.finish.seen = s.seen := rfl

/-! ### The end of BOOT -/

@[simp] theorem State.finishDone_params (s : State) : s.finishDone.params = s.params := rfl
@[simp] theorem State.finishDone_cmd (s : State) : s.finishDone.cmd = s.cmd := rfl
@[simp] theorem State.finishDone_ptr (s : State) : s.finishDone.ptr = s.ptr := rfl
@[simp] theorem State.finishDone_len (s : State) : s.finishDone.len = s.len := rfl
@[simp] theorem State.finishDone_state (s : State) : s.finishDone.state = .done := rfl
@[simp] theorem State.finishDone_initOk (s : State) : s.finishDone.initOk = s.initOk := rfl
@[simp] theorem State.finishDone_txrdy (s : State) : s.finishDone.txrdy = s.txrdy := rfl
@[simp] theorem State.finishDone_faultCode (s : State) : s.finishDone.faultCode = s.faultCode := rfl
@[simp] theorem State.finishDone_cursorX (s : State) : s.finishDone.cursorX = s.cursorX := rfl
@[simp] theorem State.finishDone_cursorY (s : State) : s.finishDone.cursorY = s.cursorY := rfl
@[simp] theorem State.finishDone_faultCmd (s : State) : s.finishDone.faultCmd = s.faultCmd := rfl
@[simp] theorem State.finishDone_seq (s : State) : s.finishDone.seq = .empty := rfl
@[simp] theorem State.finishDone_mem (s : State) : s.finishDone.mem = s.mem := rfl
@[simp] theorem State.finishDone_uart (s : State) : s.finishDone.uart = s.uart := rfl
@[simp] theorem State.finishDone_history (s : State) : s.finishDone.history = s.history := rfl
@[simp] theorem State.finishDone_resets (s : State) : s.finishDone.resets = s.resets := rfl
@[simp] theorem State.finishDone_host (s : State) : s.finishDone.host = s.host := rfl
@[simp] theorem State.finishDone_seen (s : State) : s.finishDone.seen = s.seen := rfl

/-! ### Reset -/

@[simp] theorem State.resetEngine_params (s : State) : s.resetEngine.params = s.params := rfl
@[simp] theorem State.resetEngine_cmd (s : State) : s.resetEngine.cmd = 0#32 := rfl
@[simp] theorem State.resetEngine_ptr (s : State) : s.resetEngine.ptr = 0#32 := rfl
@[simp] theorem State.resetEngine_len (s : State) : s.resetEngine.len = 0#32 := rfl
@[simp] theorem State.resetEngine_state (s : State) : s.resetEngine.state = .idle := rfl
@[simp] theorem State.resetEngine_initOk (s : State) : s.resetEngine.initOk = false := rfl
@[simp] theorem State.resetEngine_txrdy (s : State) : s.resetEngine.txrdy = false := rfl
@[simp] theorem State.resetEngine_faultCode (s : State) : s.resetEngine.faultCode = none := rfl
@[simp] theorem State.resetEngine_cursorX (s : State) : s.resetEngine.cursorX = 0#8 := rfl
@[simp] theorem State.resetEngine_cursorY (s : State) : s.resetEngine.cursorY = 0#8 := rfl
@[simp] theorem State.resetEngine_faultCmd (s : State) : s.resetEngine.faultCmd = 0#32 := rfl
@[simp] theorem State.resetEngine_seq (s : State) : s.resetEngine.seq = .empty := rfl
@[simp] theorem State.resetEngine_mem (s : State) : s.resetEngine.mem = s.mem.filter (fun c => !inFb s.params c.1) := rfl
@[simp] theorem State.resetEngine_uart (s : State) : s.resetEngine.uart = s.uart := rfl
@[simp] theorem State.resetEngine_history (s : State) : s.resetEngine.history = s.history := rfl
@[simp] theorem State.resetEngine_resets (s : State) : s.resetEngine.resets = s.resets + 1 := rfl
@[simp] theorem State.resetEngine_host (s : State) : s.resetEngine.host = s.host := rfl
@[simp] theorem State.resetEngine_seen (s : State) : s.resetEngine.seen = s.seen := rfl

end Sys2Proof.Machine
end

