-- ==== Sys2Proof/Laws/Memory.lean ====
section
/-! SUPPORT. Memory: a read after a write, the canonical form kept by every operation, what reset leaves. -/

namespace Sys2Proof.Machine

@[simp] theorem memLookup_memWrite_same (m : List Host.Cell) (a : Nat) (v : Byte) :
    memLookup (memWrite m a v) a = some v := by
  induction m with
  | nil => simp [memWrite, memLookup]
  | cons c rest ih =>
    obtain ⟨k, b⟩ := c
    rcases Nat.lt_trichotomy a k with h | h | h
    · simp [memWrite, memLookup, h]
    · subst h; simp [memWrite, memLookup]
    · have h1 : ¬ a < k := by omega
      have h2 : a ≠ k := by omega
      simp [memWrite, memLookup, h1, h2, Ne.symm h2, ih]

theorem memLookup_memWrite_other (m : List Host.Cell) {a b : Nat} (v : Byte) (h : b ≠ a) :
    memLookup (memWrite m a v) b = memLookup m b := by
  induction m with
  | nil => simp [memWrite, memLookup, Ne.symm h]
  | cons c rest ih =>
    obtain ⟨k, x⟩ := c
    by_cases h1 : a < k
    · simp [memWrite, memLookup, h1, Ne.symm h]
    · by_cases h2 : a = k
      · subst h2; simp [memWrite, memLookup, Ne.symm h]
      · simp [memWrite, memLookup, h1, h2, ih]

/-- Every address of the list is at least the bound. -/
theorem memSorted_cons (c : Host.Cell) (m : List Host.Cell) :
    memSorted (c :: m) = true ↔ (∀ d ∈ m, c.1 < d.1) ∧ memSorted m = true := by
  induction m generalizing c with
  | nil => simp [memSorted]
  | cons d rest ih =>
    simp only [memSorted, Bool.and_eq_true, decide_eq_true_eq, List.mem_cons, forall_eq_or_imp]
    constructor
    · rintro ⟨h1, h2⟩
      exact ⟨⟨h1, fun e he => Nat.lt_trans h1 (((ih d).1 h2).1 e he)⟩, h2⟩
    · rintro ⟨⟨h1, _⟩, h2⟩
      exact ⟨h1, h2⟩

/-- The cells after a write are the cell written and cells that were there. -/
theorem mem_memWrite {m : List Host.Cell} {a : Nat} {v : Byte} {c : Host.Cell} (h : c ∈ memWrite m a v) :
    c = (a, v) ∨ c ∈ m := by
  induction m with
  | nil => simpa [memWrite] using h
  | cons d rest ih =>
    obtain ⟨k, b⟩ := d
    simp only [memWrite] at h
    split at h
    · simpa using h
    · split at h
      · rcases List.mem_cons.1 h with h | h
        · exact .inl h
        · exact .inr (List.mem_cons_of_mem _ h)
      · rcases List.mem_cons.1 h with h | h
        · exact .inr (by simp [h])
        · rcases ih h with h | h
          · exact .inl h
          · exact .inr (List.mem_cons_of_mem _ h)

/-- A write keeps the canonical form. -/
theorem memWrite_wf {m : List Host.Cell} (h : Memory.wf m) (a : Nat) (v : Byte) : Memory.wf (memWrite m a v) := by
  induction m with
  | nil => simp [memWrite, Memory.wf, memSorted]
  | cons d rest ih =>
    obtain ⟨k, b⟩ := d
    obtain ⟨h1, h2⟩ := (memSorted_cons _ _).1 h
    simp only [memWrite]
    split
    · rename_i hlt
      refine (memSorted_cons _ _).2 ⟨?_, h⟩
      intro e he
      rcases List.mem_cons.1 he with rfl | he
      · exact hlt
      · exact Nat.lt_trans hlt (h1 e he)
    · split
      · rename_i heq
        subst heq
        exact (memSorted_cons _ _).2 ⟨h1, h2⟩
      · refine (memSorted_cons _ _).2 ⟨?_, ih h2⟩
        intro e he
        rcases mem_memWrite he with rfl | he
        · simp only; omega
        · exact h1 e he

/-- Dropping cells keeps the canonical form. -/
theorem filter_wf {m : List Host.Cell} (h : Memory.wf m) (p : Host.Cell → Bool) : Memory.wf (m.filter p) := by
  induction m with
  | nil => simpa using h
  | cons d rest ih =>
    obtain ⟨h1, h2⟩ := (memSorted_cons _ _).1 h
    simp only [List.filter_cons]
    split
    · exact (memSorted_cons _ _).2 ⟨fun e he => h1 e (List.mem_filter.1 he).1, ih h2⟩
    · exact ih h2

/-- What is listed for an address once the cells of a set of addresses are dropped. -/
theorem memLookup_filter (m : List Host.Cell) (p : Nat → Bool) (a : Nat) :
    memLookup (m.filter (fun c => p c.1)) a = if p a then memLookup m a else none := by
  induction m with
  | nil => simp [memLookup]
  | cons d rest ih =>
    obtain ⟨k, b⟩ := d
    by_cases hk : k = a
    · subst hk
      by_cases hp : p k <;> simp_all [memLookup]
    · by_cases hp : p k <;> simp_all [memLookup]

/-- Reset's memory is canonical. -/
theorem reset_mem_wf : Memory.wf State.reset.mem := by decide

/-- Reset keeps the canonical form. -/
theorem resetEngine_mem_wf {s : State} (h : Memory.wf s.mem) : Memory.wf s.resetEngine.mem := filter_wf h _

/-! ### byteAt under the updates -/

/-- Only the parameters and the count of resets decide what an unlisted byte reads as. -/
theorem unlistedByte_congr {s t : State} (hp : t.params = s.params) (hr : t.resets = s.resets) (a : Nat) :
    unlistedByte t a = unlistedByte s a := by
  unfold unlistedByte; rw [hp, hr]

/-- Only memory, the parameters and the count of resets decide what a byte reads as. -/
theorem byteAt_congr {s t : State} (hm : t.mem = s.mem) (hp : t.params = s.params) (hr : t.resets = s.resets) (a : Nat) :
    t.byteAt a = s.byteAt a := by
  unfold State.byteAt; rw [hm, unlistedByte_congr hp hr]

/-- A byte reads as the value just written to it. -/
theorem byteAt_setMem_same (s : State) (a : Nat) (v : Byte) :
    (s.setMem (memWrite s.mem a v)).byteAt a = v := by
  simp [State.byteAt]

/-- A write leaves every other byte alone. -/
theorem byteAt_setMem_other (s : State) {a b : Nat} (v : Byte) (h : b ≠ a) :
    (s.setMem (memWrite s.mem a v)).byteAt b = s.byteAt b := by
  unfold State.byteAt
  rw [State.setMem_mem, memLookup_memWrite_other _ _ h, unlistedByte_congr (s := s) (t := s.setMem (memWrite s.mem a v)) rfl rfl]

/-- Reset leaves text-source memory as it was (70_reset R210 resets only FB's content). -/
theorem resetEngine_byteAt {s : State} {a : Nat} (h : inFb s.params a = false) :
    s.resetEngine.byteAt a = s.byteAt a := by
  have hf := memLookup_filter s.mem (fun k => !inFb s.params k) a
  have hu : unlistedByte s.resetEngine a = unlistedByte s a := by simp [unlistedByte, h]
  unfold State.byteAt
  rw [hu, State.resetEngine_mem, hf]
  simp [h]

/-- After reset a framebuffer byte holds the free content of that reset. -/
theorem resetEngine_byteAt_fb {s : State} {a : Nat} (h : inFb s.params a = true) :
    s.resetEngine.byteAt a = Config.fbAtReset (s.resets + 1) a := by
  have hf := memLookup_filter s.mem (fun k => !inFb s.params k) a
  unfold State.byteAt
  rw [State.resetEngine_mem, hf]
  simp [h, unlistedByte]

end Sys2Proof.Machine
end

