-- ==== Sys2Proof/Laws/Bus.lean ====
section
/-! SUPPORT. What performing one access can do, said once for each access, and what a step of a body comes to. -/

namespace Sys2Proof.Machine

/-! ### The state after an access: one event, and the access's own effect -/

theorem afterPortRead_eq (s : State) (r : UartReg) :
    s.afterPortRead r =
      { s with uart := s.uart.afterRead r, history := .pr (uartPort s.params r) (s.portAnswer r) :: s.history } := rfl

theorem afterPortWrite_eq (s : State) (r : UartReg) (v : Byte) :
    s.afterPortWrite r v =
      { s with uart := s.uart.afterWrite r v, history := .pw (uartPort s.params r) v :: s.history } := rfl

theorem afterMemRead_eq (s : State) (a : Nat) :
    s.afterMemRead a = { s with history := .mr a (s.byteAt a) :: s.history } := rfl

theorem afterMemWrite_eq (s : State) (a : Nat) (v : Byte) :
    s.afterMemWrite a v = { s with mem := memWrite s.mem a v, history := .mw a v :: s.history } := rfl

/-! ### The fields after an access -/

@[simp] theorem State.afterPortRead_params (s : State) (r : UartReg) : (s.afterPortRead r).params = s.params := rfl
@[simp] theorem State.afterPortRead_cmd (s : State) (r : UartReg) : (s.afterPortRead r).cmd = s.cmd := rfl
@[simp] theorem State.afterPortRead_ptr (s : State) (r : UartReg) : (s.afterPortRead r).ptr = s.ptr := rfl
@[simp] theorem State.afterPortRead_len (s : State) (r : UartReg) : (s.afterPortRead r).len = s.len := rfl
@[simp] theorem State.afterPortRead_state (s : State) (r : UartReg) : (s.afterPortRead r).state = s.state := rfl
@[simp] theorem State.afterPortRead_initOk (s : State) (r : UartReg) : (s.afterPortRead r).initOk = s.initOk := rfl
@[simp] theorem State.afterPortRead_txrdy (s : State) (r : UartReg) : (s.afterPortRead r).txrdy = s.txrdy := rfl
@[simp] theorem State.afterPortRead_faultCode (s : State) (r : UartReg) : (s.afterPortRead r).faultCode = s.faultCode := rfl
@[simp] theorem State.afterPortRead_cursorX (s : State) (r : UartReg) : (s.afterPortRead r).cursorX = s.cursorX := rfl
@[simp] theorem State.afterPortRead_cursorY (s : State) (r : UartReg) : (s.afterPortRead r).cursorY = s.cursorY := rfl
@[simp] theorem State.afterPortRead_faultCmd (s : State) (r : UartReg) : (s.afterPortRead r).faultCmd = s.faultCmd := rfl
@[simp] theorem State.afterPortRead_seq (s : State) (r : UartReg) : (s.afterPortRead r).seq = s.seq := rfl
@[simp] theorem State.afterPortRead_mem (s : State) (r : UartReg) : (s.afterPortRead r).mem = s.mem := rfl
@[simp] theorem State.afterPortRead_uart (s : State) (r : UartReg) :
    (s.afterPortRead r).uart = s.uart.afterRead r := rfl
@[simp] theorem State.afterPortRead_history (s : State) (r : UartReg) :
    (s.afterPortRead r).history = .pr (uartPort s.params r) (s.portAnswer r) :: s.history := rfl
@[simp] theorem State.afterPortRead_resets (s : State) (r : UartReg) : (s.afterPortRead r).resets = s.resets := rfl
@[simp] theorem State.afterPortRead_host (s : State) (r : UartReg) : (s.afterPortRead r).host = s.host := rfl
@[simp] theorem State.afterPortRead_seen (s : State) (r : UartReg) : (s.afterPortRead r).seen = s.seen := rfl

@[simp] theorem State.afterPortWrite_params (s : State) (r : UartReg) (v : Byte) : (s.afterPortWrite r v).params = s.params := rfl
@[simp] theorem State.afterPortWrite_cmd (s : State) (r : UartReg) (v : Byte) : (s.afterPortWrite r v).cmd = s.cmd := rfl
@[simp] theorem State.afterPortWrite_ptr (s : State) (r : UartReg) (v : Byte) : (s.afterPortWrite r v).ptr = s.ptr := rfl
@[simp] theorem State.afterPortWrite_len (s : State) (r : UartReg) (v : Byte) : (s.afterPortWrite r v).len = s.len := rfl
@[simp] theorem State.afterPortWrite_state (s : State) (r : UartReg) (v : Byte) : (s.afterPortWrite r v).state = s.state := rfl
@[simp] theorem State.afterPortWrite_initOk (s : State) (r : UartReg) (v : Byte) : (s.afterPortWrite r v).initOk = s.initOk := rfl
@[simp] theorem State.afterPortWrite_txrdy (s : State) (r : UartReg) (v : Byte) : (s.afterPortWrite r v).txrdy = s.txrdy := rfl
@[simp] theorem State.afterPortWrite_faultCode (s : State) (r : UartReg) (v : Byte) : (s.afterPortWrite r v).faultCode = s.faultCode := rfl
@[simp] theorem State.afterPortWrite_cursorX (s : State) (r : UartReg) (v : Byte) : (s.afterPortWrite r v).cursorX = s.cursorX := rfl
@[simp] theorem State.afterPortWrite_cursorY (s : State) (r : UartReg) (v : Byte) : (s.afterPortWrite r v).cursorY = s.cursorY := rfl
@[simp] theorem State.afterPortWrite_faultCmd (s : State) (r : UartReg) (v : Byte) : (s.afterPortWrite r v).faultCmd = s.faultCmd := rfl
@[simp] theorem State.afterPortWrite_seq (s : State) (r : UartReg) (v : Byte) : (s.afterPortWrite r v).seq = s.seq := rfl
@[simp] theorem State.afterPortWrite_mem (s : State) (r : UartReg) (v : Byte) : (s.afterPortWrite r v).mem = s.mem := rfl
@[simp] theorem State.afterPortWrite_uart (s : State) (r : UartReg) (v : Byte) :
    (s.afterPortWrite r v).uart = s.uart.afterWrite r v := rfl
@[simp] theorem State.afterPortWrite_history (s : State) (r : UartReg) (v : Byte) :
    (s.afterPortWrite r v).history = .pw (uartPort s.params r) v :: s.history := rfl
@[simp] theorem State.afterPortWrite_resets (s : State) (r : UartReg) (v : Byte) : (s.afterPortWrite r v).resets = s.resets := rfl
@[simp] theorem State.afterPortWrite_host (s : State) (r : UartReg) (v : Byte) : (s.afterPortWrite r v).host = s.host := rfl
@[simp] theorem State.afterPortWrite_seen (s : State) (r : UartReg) (v : Byte) : (s.afterPortWrite r v).seen = s.seen := rfl

@[simp] theorem State.afterMemRead_params (s : State) (a : Nat) : (s.afterMemRead a).params = s.params := rfl
@[simp] theorem State.afterMemRead_cmd (s : State) (a : Nat) : (s.afterMemRead a).cmd = s.cmd := rfl
@[simp] theorem State.afterMemRead_ptr (s : State) (a : Nat) : (s.afterMemRead a).ptr = s.ptr := rfl
@[simp] theorem State.afterMemRead_len (s : State) (a : Nat) : (s.afterMemRead a).len = s.len := rfl
@[simp] theorem State.afterMemRead_state (s : State) (a : Nat) : (s.afterMemRead a).state = s.state := rfl
@[simp] theorem State.afterMemRead_initOk (s : State) (a : Nat) : (s.afterMemRead a).initOk = s.initOk := rfl
@[simp] theorem State.afterMemRead_txrdy (s : State) (a : Nat) : (s.afterMemRead a).txrdy = s.txrdy := rfl
@[simp] theorem State.afterMemRead_faultCode (s : State) (a : Nat) : (s.afterMemRead a).faultCode = s.faultCode := rfl
@[simp] theorem State.afterMemRead_cursorX (s : State) (a : Nat) : (s.afterMemRead a).cursorX = s.cursorX := rfl
@[simp] theorem State.afterMemRead_cursorY (s : State) (a : Nat) : (s.afterMemRead a).cursorY = s.cursorY := rfl
@[simp] theorem State.afterMemRead_faultCmd (s : State) (a : Nat) : (s.afterMemRead a).faultCmd = s.faultCmd := rfl
@[simp] theorem State.afterMemRead_seq (s : State) (a : Nat) : (s.afterMemRead a).seq = s.seq := rfl
@[simp] theorem State.afterMemRead_mem (s : State) (a : Nat) : (s.afterMemRead a).mem = s.mem := rfl
@[simp] theorem State.afterMemRead_uart (s : State) (a : Nat) : (s.afterMemRead a).uart = s.uart := rfl
@[simp] theorem State.afterMemRead_history (s : State) (a : Nat) :
    (s.afterMemRead a).history = .mr a (s.byteAt a) :: s.history := rfl
@[simp] theorem State.afterMemRead_resets (s : State) (a : Nat) : (s.afterMemRead a).resets = s.resets := rfl
@[simp] theorem State.afterMemRead_host (s : State) (a : Nat) : (s.afterMemRead a).host = s.host := rfl
@[simp] theorem State.afterMemRead_seen (s : State) (a : Nat) : (s.afterMemRead a).seen = s.seen := rfl

@[simp] theorem State.afterMemWrite_params (s : State) (a : Nat) (v : Byte) : (s.afterMemWrite a v).params = s.params := rfl
@[simp] theorem State.afterMemWrite_cmd (s : State) (a : Nat) (v : Byte) : (s.afterMemWrite a v).cmd = s.cmd := rfl
@[simp] theorem State.afterMemWrite_ptr (s : State) (a : Nat) (v : Byte) : (s.afterMemWrite a v).ptr = s.ptr := rfl
@[simp] theorem State.afterMemWrite_len (s : State) (a : Nat) (v : Byte) : (s.afterMemWrite a v).len = s.len := rfl
@[simp] theorem State.afterMemWrite_state (s : State) (a : Nat) (v : Byte) : (s.afterMemWrite a v).state = s.state := rfl
@[simp] theorem State.afterMemWrite_initOk (s : State) (a : Nat) (v : Byte) : (s.afterMemWrite a v).initOk = s.initOk := rfl
@[simp] theorem State.afterMemWrite_txrdy (s : State) (a : Nat) (v : Byte) : (s.afterMemWrite a v).txrdy = s.txrdy := rfl
@[simp] theorem State.afterMemWrite_faultCode (s : State) (a : Nat) (v : Byte) : (s.afterMemWrite a v).faultCode = s.faultCode := rfl
@[simp] theorem State.afterMemWrite_cursorX (s : State) (a : Nat) (v : Byte) : (s.afterMemWrite a v).cursorX = s.cursorX := rfl
@[simp] theorem State.afterMemWrite_cursorY (s : State) (a : Nat) (v : Byte) : (s.afterMemWrite a v).cursorY = s.cursorY := rfl
@[simp] theorem State.afterMemWrite_faultCmd (s : State) (a : Nat) (v : Byte) : (s.afterMemWrite a v).faultCmd = s.faultCmd := rfl
@[simp] theorem State.afterMemWrite_seq (s : State) (a : Nat) (v : Byte) : (s.afterMemWrite a v).seq = s.seq := rfl
@[simp] theorem State.afterMemWrite_mem (s : State) (a : Nat) (v : Byte) :
    (s.afterMemWrite a v).mem = memWrite s.mem a v := rfl
@[simp] theorem State.afterMemWrite_uart (s : State) (a : Nat) (v : Byte) : (s.afterMemWrite a v).uart = s.uart := rfl
@[simp] theorem State.afterMemWrite_history (s : State) (a : Nat) (v : Byte) :
    (s.afterMemWrite a v).history = .mw a v :: s.history := rfl
@[simp] theorem State.afterMemWrite_resets (s : State) (a : Nat) (v : Byte) : (s.afterMemWrite a v).resets = s.resets := rfl
@[simp] theorem State.afterMemWrite_host (s : State) (a : Nat) (v : Byte) : (s.afterMemWrite a v).host = s.host := rfl
@[simp] theorem State.afterMemWrite_seen (s : State) (a : Nat) (v : Byte) : (s.afterMemWrite a v).seen = s.seen := rfl

/-- An access to the UART or a read leaves every byte of memory alone. -/
theorem byteAt_afterPortRead (s : State) (r : UartReg) (b : Nat) : (s.afterPortRead r).byteAt b = s.byteAt b :=
  byteAt_congr rfl rfl rfl b

theorem byteAt_afterPortWrite (s : State) (r : UartReg) (v : Byte) (b : Nat) :
    (s.afterPortWrite r v).byteAt b = s.byteAt b :=
  byteAt_congr rfl rfl rfl b

theorem byteAt_afterMemRead (s : State) (a b : Nat) : (s.afterMemRead a).byteAt b = s.byteAt b :=
  byteAt_congr rfl rfl rfl b

/-- "A MemRead of an FB address returns the value of the latest MemWrite to that address" (20_memory R71). -/
theorem byteAt_afterMemWrite_same (s : State) (a : Nat) (v : Byte) : (s.afterMemWrite a v).byteAt a = v := by
  rw [show (s.afterMemWrite a v).byteAt a = (s.setMem (memWrite s.mem a v)).byteAt a from byteAt_congr rfl rfl rfl a]
  exact byteAt_setMem_same s a v

/-- "MemWrite changes only the addressed FB byte" (20_memory R68). -/
theorem byteAt_afterMemWrite_other (s : State) {a b : Nat} (v : Byte) (h : b ≠ a) :
    (s.afterMemWrite a v).byteAt b = s.byteAt b := by
  rw [show (s.afterMemWrite a v).byteAt b = (s.setMem (memWrite s.mem a v)).byteAt b from byteAt_congr rfl rfl rfl b]
  exact byteAt_setMem_other s v h

/-! ### The UART -/

@[simp] theorem afterRead_oracle {u : Uart} (h : u.mode = .oracle) (r : UartReg) :
    u.afterRead r = { u with answers := u.answers.tail } := by simp [Uart.afterRead, h]

@[simp] theorem afterWrite_oracle {u : Uart} (h : u.mode = .oracle) (r : UartReg) (v : Byte) :
    u.afterWrite r v = u := by simp [Uart.afterWrite, h]

theorem portAnswer_oracle_cons {s : State} {v : Byte} {vs : List Byte} (hm : s.uart.mode = .oracle)
    (ha : s.uart.answers = v :: vs) (r : UartReg) : s.portAnswer r = v := by simp [State.portAnswer, hm, ha]

/-- An access never changes who answers. -/
@[simp] theorem afterRead_mode (u : Uart) (r : UartReg) : (u.afterRead r).mode = u.mode := by
  unfold Uart.afterRead
  split <;> simp_all [Uart.refAfterRead]
  all_goals cases r <;> simp [*] <;> split <;> simp [*]

@[simp] theorem afterWrite_mode (u : Uart) (r : UartReg) (v : Byte) : (u.afterWrite r v).mode = u.mode := by
  unfold Uart.afterWrite
  split <;> simp_all [Uart.refWrite, Uart.refTransmit]
  all_goals cases r <;> simp [*] <;> repeat (first | split | simp [*])

/-! ### Performing an access -/

/-- Everything performing an access can come to (20_memory R60, R64, R65). -/
theorem perform_cases (s : State) (x : Access) :
    (∃ r, x = .portRead r ∧ s.perform x = .got (s.portAnswer r) (s.afterPortRead r)) ∨
    (∃ r v, x = .portWrite r v ∧ s.perform x = .got 0x00#8 (s.afterPortWrite r v)) ∨
    (∃ a, x = .memRead a ∧ readFault s.params a = none ∧ s.perform x = .got (s.byteAt a) (s.afterMemRead a)) ∨
    (∃ a c, x = .memRead a ∧ readFault s.params a = some c ∧ s.perform x = .raised c) ∨
    (∃ a v, x = .memWrite a v ∧ inFb s.params a = true ∧ s.perform x = .got 0x00#8 (s.afterMemWrite a v)) ∨
    (∃ a v, x = .memWrite a v ∧ inFb s.params a = false ∧ s.perform x = .stuck .writeOutsideFb) := by
  cases x with
  | portRead r => exact .inl ⟨r, rfl, rfl⟩
  | portWrite r v => exact .inr (.inl ⟨r, v, rfl, rfl⟩)
  | memRead a =>
    cases h : readFault s.params a with
    | none => exact .inr (.inr (.inl ⟨a, rfl, h, by simp [State.perform, h]⟩))
    | some c => exact .inr (.inr (.inr (.inl ⟨a, c, rfl, h, by simp [State.perform, h]⟩)))
  | memWrite a v =>
    cases h : inFb s.params a with
    | true => exact .inr (.inr (.inr (.inr (.inl ⟨a, v, rfl, h, by simp [State.perform, h]⟩))))
    | false => exact .inr (.inr (.inr (.inr (.inr ⟨a, v, rfl, h, by simp [State.perform, h]⟩))))

/-- What an access that is performed leaves alone: everything but memory, the UART and the event history. -/
theorem perform_got {s u : State} {a : Access} {v : Byte} (h : s.perform a = .got v u) :
    u = { s with mem := u.mem, uart := u.uart, history := u.history } := by
  rcases perform_cases s a with ⟨_, _, e⟩ | ⟨_, _, _, e⟩ | ⟨_, _, _, e⟩ | ⟨_, _, _, _, e⟩ | ⟨_, _, _, _, e⟩ |
    ⟨_, _, _, _, e⟩ <;> rw [e] at h <;> cases h <;> rfl

/-! ### One step of a body -/

section Body
variable {P R : Type} {access : P → State → Option Access} {after : P → Byte → State → State × Flow P R}
  {landing : State × Flow P R → State} {p : P} {s : State}

/-- A step of a body that answers a next state either made its access or entered FAULT without one. -/
theorem runAccess_next {t : State} (h : runAccess access after landing p s = .next t) :
    ∃ x, access p s = some x ∧
      ((∃ v u, s.perform x = .got v u ∧ t = landing (after p v u)) ∨
        (∃ c, s.perform x = .raised c ∧ t = s.enterFault c)) := by
  unfold runAccess at h
  split at h
  · cases h
  · rename_i x hx
    refine ⟨x, hx, ?_⟩
    split at h
    · rename_i v u hp
      cases h
      exact .inl ⟨v, u, hp, rfl⟩
    · rename_i c hp
      cases h
      exact .inr ⟨c, hp, rfl⟩
    · cases h

theorem runAccess_portRead {r : UartReg} (h : access p s = some (.portRead r)) :
    runAccess access after landing p s = .next (landing (after p (s.portAnswer r) (s.afterPortRead r))) := by
  simp only [runAccess, h, State.perform]

theorem runAccess_portWrite {r : UartReg} {v : Byte} (h : access p s = some (.portWrite r v)) :
    runAccess access after landing p s = .next (landing (after p 0x00#8 (s.afterPortWrite r v))) := by
  simp only [runAccess, h, State.perform]

theorem runAccess_memRead {a : Nat} (h : access p s = some (.memRead a)) (hr : readFault s.params a = none) :
    runAccess access after landing p s = .next (landing (after p (s.byteAt a) (s.afterMemRead a))) := by
  simp only [runAccess, h, State.perform, hr]

theorem runAccess_memRead_fault {a : Nat} {c : FaultCode} (h : access p s = some (.memRead a))
    (hr : readFault s.params a = some c) : runAccess access after landing p s = .next (s.enterFault c) := by
  simp only [runAccess, h, State.perform, hr]

theorem runAccess_memWrite {a : Nat} {v : Byte} (h : access p s = some (.memWrite a v)) (hw : inFb s.params a = true) :
    runAccess access after landing p s = .next (landing (after p 0x00#8 (s.afterMemWrite a v))) := by
  simp only [runAccess, h, State.perform, hw, if_true]

end Body

/-! ### Where a body's flow lands -/

@[simp] theorem land_goto {P R : Type} (place : P → Seq) (follow : R → State → State) (s : State) (p : P) :
    land place follow (s, .goto p) = s.setSeq (place p) := rfl

@[simp] theorem land_ended {P R : Type} (place : P → Seq) (follow : R → State → State) (s : State) (x : R) :
    land place follow (s, .ended x) = follow x s := rfl

@[simp] theorem land_raised {P R : Type} (place : P → Seq) (follow : R → State → State) (s : State) (c : FaultCode) :
    land place follow (s, .raised c) = s.enterFault c := rfl

@[simp] theorem runStart_goto {P R : Type} (access : P → State → Option Access)
    (after : P → Byte → State → State × Flow P R) (landing : State × Flow P R → State) (s : State) (p : P) :
    runStart access after landing (s, .goto p) = runAccess access after landing p s := rfl

@[simp] theorem runStart_ended {P R : Type} (access : P → State → Option Access)
    (after : P → Byte → State → State × Flow P R) (landing : State × Flow P R → State) (s : State) (x : R) :
    runStart access after landing (s, .ended x) = .next (landing (s, .ended x)) := rfl

@[simp] theorem runStart_raised {P R : Type} (access : P → State → Option Access)
    (after : P → Byte → State → State × Flow P R) (landing : State × Flow P R → State) (s : State) (c : FaultCode) :
    runStart access after landing (s, .raised c) = .next (landing (s, .raised c)) := rfl

end Sys2Proof.Machine
end

