-- ==== Sys2Proof/Laws/Operands.lean ====
section
/-! SUPPORT. Addresses and text operands: the cells of the screen lie in FB, what admits a text read and what faults it,
the wrap of PrintBody's position, what a started command's first steps reduce to. -/

namespace Sys2Proof.Machine

/-! ### Cells -/

theorem inFb_iff (p : Params) (a : Nat) : inFb p a = true ↔ p.vgaBase ≤ a ∧ a < p.vgaBase + 2 * cells p := by
  unfold inFb fbBytes; simp

/-- The character byte of a cell of the screen lies in FB (20_memory R65). -/
theorem inFb_cellAddr (p : Params) {c : Nat} (h : c < cells p) : inFb p (cellAddr p c) = true := by
  rw [inFb_iff]; unfold cellAddr; omega

/-- The attribute byte of a cell of the screen lies in FB (20_memory R65). -/
theorem inFb_cellAddr_succ (p : Params) {c : Nat} (h : c < cells p) : inFb p (cellAddr p c + 1) = true := by
  rw [inFb_iff]; unfold cellAddr; omega

/-- A coordinate of the screen is a cell (00_scope R9). -/
theorem cellIndex_lt {p : Params} {col row : Nat} (hc : col < p.cols) (hr : row < p.rows) :
    cellIndex p col row < cells p := by
  have h : (row + 1) * p.cols ≤ p.rows * p.cols := Nat.mul_le_mul_right _ hr
  rw [Nat.succ_mul] at h
  unfold cellIndex cells
  rw [Nat.mul_comm p.cols]
  omega

/-- A screen with a row and a column has a cell. -/
theorem cells_pos {p : Params} (hc : 0 < p.cols) (hr : 0 < p.rows) : 0 < cells p := Nat.mul_pos hc hr

/-! ### Text operands (20_memory R64) -/

theorem readFault_of_admitted {s : State} {a : Nat} (h : Admitted s a) : readFault s.params a = none := by
  obtain ⟨h1, h2⟩ := h
  have : ¬ 2 ^ s.params.addrWidth ≤ a := by omega
  rcases h2 with h2 | h2 <;> simp [readFault, this, h2]

theorem admitted_of_readFault {s : State} {a : Nat} (h : readFault s.params a = none) : Admitted s a := by
  unfold readFault at h
  split at h
  · cases h
  · split at h
    · rename_i h1 h2
      exact ⟨by omega, by simpa using h2⟩
    · cases h

theorem readFault_addrWrap {p : Params} {a : Nat} (h : 2 ^ p.addrWidth ≤ a) : readFault p a = some .addrWrap := by
  simp [readFault, h]

theorem readFault_srcUnmapped {p : Params} {a : Nat} (h : a < 2 ^ p.addrWidth) (h1 : inFb p a = false)
    (h2 : isReadable p a = false) : readFault p a = some .srcUnmapped := by
  have : ¬ 2 ^ p.addrWidth ≤ a := by omega
  simp [readFault, this, h1, h2]

theorem textStep_bus {prm : Params} {p i : Nat} (h : readFault prm (p + i) = none) :
    textStep prm (.mem p) i = .bus (p + i) := by
  simp [textStep, h]

theorem textStep_raised {prm : Params} {p i : Nat} {c : FaultCode} (h : readFault prm (p + i) = some c) :
    textStep prm (.mem p) i = .raised c := by
  simp [textStep, h]

theorem textStep_rom (p : Params) (str : List Byte) (i : Nat) : textStep p (.rom str) i = .rom (str.getD i 0x00#8) := rfl

/-- A byte of text that stands in text-source memory is admitted and reads as the text says. -/
theorem TextAt.admitted {s : State} {p : Nat} {txt : List Byte} (h : TextAt s p txt) {i : Nat} (hi : i < txt.length) :
    Admitted s (p + i) :=
  ⟨(h i hi).1, .inr (h i hi).2.2.1⟩

/-! ### PrintBody's position (41_console R132, R144) -/

theorem wrapRow_eq_mod {p : Params} {row : Nat} (h : row ≤ p.rows) : wrapRow p row = row % p.rows := by
  unfold wrapRow
  split
  · rename_i h; rw [h, Nat.mod_self]
  · rw [Nat.mod_eq_of_lt (by omega)]

theorem advance_eq {p : Params} {col row : Nat} (hc : col < p.cols) (hr : row < p.rows) :
    advance p col row = ((col + 1) % p.cols, if col + 1 = p.cols then (row + 1) % p.rows else row) := by
  unfold advance
  split
  · rename_i h; rw [wrapRow_eq_mod (by omega), h, Nat.mod_self]
  · rw [wrapRow_eq_mod (by omega), Nat.mod_eq_of_lt hr, Nat.mod_eq_of_lt (a := col + 1) (by omega)]

/-- The position after a character is a position of the screen (41_console R144). -/
theorem advance_lt {p : Params} {col row : Nat} (hc : col < p.cols) (hr : row < p.rows) :
    (advance p col row).1 < p.cols ∧ (advance p col row).2 < p.rows := by
  rw [advance_eq hc hr]
  refine ⟨Nat.mod_lt _ (by omega), ?_⟩
  dsimp only
  split
  · exact Nat.mod_lt _ (by omega)
  · exact hr

/-- The column of character j of a print started on row y. -/
theorem printCell_mod (p : Params) (y j : Nat) : printCell p y j % p.cols = j % p.cols := by
  unfold printCell cells
  rw [Nat.mod_mul_right_mod, Nat.mul_comm, Nat.mul_add_mod]

/-- The row of character j of a print started on row y (41_console R139). -/
theorem printCell_div {p : Params} (hc : 0 < p.cols) (y j : Nat) :
    printCell p y j / p.cols = (y + j / p.cols) % p.rows := by
  unfold printCell cells
  rw [Nat.mod_mul_right_div_self, Nat.mul_comm, Nat.mul_add_div hc]

/-- Every character of a print goes to a cell of the screen (41_console R144). -/
theorem printCell_lt {p : Params} (hc : 0 < p.cols) (hr : 0 < p.rows) (y j : Nat) : printCell p y j < cells p :=
  Nat.mod_lt _ (cells_pos hc hr)

/-- The cell of a position is the position's cell index (00_scope R9). -/
theorem cellIndex_printCell (p : Params) (y j : Nat) :
    cellIndex p (printCell p y j % p.cols) (printCell p y j / p.cols) = printCell p y j := by
  unfold cellIndex
  rw [Nat.mul_comm, Nat.div_add_mod]

/-- Two characters of a print of at most CELLS characters go to different cells. -/
theorem printCell_inj {p : Params} {y j k : Nat} (hj : j < cells p) (hk : k < cells p)
    (h : printCell p y j = printCell p y k) : j = k := by
  have h1 := Nat.sub_mod_eq_zero_of_mod_eq h
  have h2 := Nat.sub_mod_eq_zero_of_mod_eq h.symm
  rw [Nat.add_sub_add_left, Nat.mod_eq_of_lt (by omega)] at h1 h2
  omega

/-- The position after j characters from (0, y) is the cell (y*COLS + j) mod CELLS (41_console R141). -/
theorem advance_printCell {p : Params} (hc : 0 < p.cols) (hr : 0 < p.rows) (y j : Nat) :
    advance p (printCell p y j % p.cols) (printCell p y j / p.cols) =
      (printCell p y (j + 1) % p.cols, printCell p y (j + 1) / p.cols) := by
  have hlt : j % p.cols < p.cols := Nat.mod_lt _ hc
  have hd : j + 1 = p.cols * (j / p.cols) + (j % p.cols + 1) := by rw [← Nat.add_assoc, Nat.div_add_mod]
  rw [printCell_mod, printCell_mod, printCell_div hc, printCell_div hc, advance_eq hlt (Nat.mod_lt _ hr)]
  refine Prod.ext (Nat.mod_add_mod j p.cols 1) ?_
  dsimp only
  conv => rhs; rw [hd, Nat.mul_add_div hc]
  split
  · rename_i h
    rw [h, Nat.div_self hc, Nat.mod_add_mod, Nat.add_assoc]
  · rw [Nat.div_eq_of_lt (a := j % p.cols + 1) (by omega), Nat.add_zero]

/-! ### Steps in a row -/

theorem stepN_add {m : Nat} {s u : State} (h : stepN m s = .next u) (n : Nat) : stepN (m + n) s = stepN n u := by
  induction m generalizing s with
  | zero => simp only [stepN] at h; cases h; simp
  | succ k ih =>
    rw [show k + 1 + n = (k + n) + 1 by omega]
    simp only [stepN] at h ⊢
    cases hs : step s with
    | next t => rw [hs] at h; exact ih h
    | fault f => rw [hs] at h; cases h
    | refused r => rw [hs] at h; cases h

theorem stepN_succ {s t : State} (h : step s = .next t) (n : Nat) : stepN (n + 1) s = stepN n t := by
  simp only [stepN, h]

/-- While BUSY with no host move left, a step is exec of the command in CMD. -/
theorem step_busy {s : State} {i : Instr} (hb : s.state = .busy) (hh : s.host = []) (hd : decode s.cmd = .command i) :
    step s = exec i s := by
  simp [step, systemStep, hh, engineStep, hb, engineBusy, hd]

end Sys2Proof.Machine
end

