-- ==== Sys2Proof/Laws/Bodies.lean ====
section
/-! SUPPORT. What each body does after an access, one lemma for each way it can go on (40_uart R103 to R105, 41_console
R132, R133, R137); callers cite these and do not unfold the bodies. -/

namespace Sys2Proof.Machine

/-! ### The divisor (10_state R49) -/

/-- DLM:DLL as InitBody writes them are DIVISOR. -/
theorem divisor_bytes (p : Params) : divisorHigh p ++ divisorLow p = p.divisor.bits := by
  apply BitVec.eq_of_getLsbD_eq
  intro i hi
  simp only [divisorHigh, divisorLow, BitVec.getLsbD_append, BitVec.getLsbD_extractLsb']
  by_cases h : i < 8
  · simp [h]
  · simp [h, show i - 8 < 8 by omega, show 8 + (i - 8) = i by omega]

/-- Latches that hold the two bytes hold DIVISOR as a number. -/
theorem Uart.divisor_of_latches {u : Uart} {p : Params} (hm : u.dlm = divisorHigh p) (hl : u.dll = divisorLow p) :
    u.divisor = p.divisor.bits.toNat := by
  rw [← divisor_bytes p, ← hm, ← hl, BitVec.toNat_append, Nat.shiftLeft_eq, Uart.divisor, Nat.mul_comm,
    ← Nat.two_pow_add_eq_or_of_lt (i := 8) u.dll.isLt]

/-- DIVISOR is at least 1. -/
theorem divisor_pos (p : Params) : 1 ≤ p.divisor.bits.toNat := by
  have h := p.divisor.valid
  have : p.divisor.bits.toNat ≠ 0 := fun e => h (BitVec.eq_of_toNat_eq (by simpa using e))
  omega

/-! ### InitBody -/

theorem initAfter_rbr_match {v : Byte} {s : State} (h : v = s.params.testByte) :
    initAfter .rbr v s = (s, .goto .mcrFinal) := by
  simp [initAfter, echoMatches, h]

theorem initAfter_rbr_mismatch {v : Byte} {s : State} (h : v ≠ s.params.testByte) :
    initAfter .rbr v s = (s, .ended false) := by
  simp [initAfter, echoMatches, h]

/-- InitBody changes no state of its own. -/
theorem initAfter_state (p : InitPt) (v : Byte) (s : State) : (initAfter p v s).1 = s := by
  cases p <;> simp only [initAfter]
  split <;> rfl

/-- InitBody raises no fault (40_uart R100). -/
theorem initAfter_not_raised (p : InitPt) (v : Byte) (s : State) (c : FaultCode) :
    (initAfter p v s).2 ≠ .raised c := by
  cases p <;> simp [initAfter]
  split <;> simp

/-! ### THRE -/

theorem threSet_true {p : Params} {v : Byte} (h : v &&& p.threMask ≠ 0#8) : threSet p v = true := by
  simp [threSet, h]

theorem threSet_false {p : Params} {v : Byte} (h : v &&& p.threMask = 0#8) : threSet p v = false := by
  simp [threSet, h]

/-! ### SendBody -/

theorem sendLoop_lt {n i : Nat} (h : i < n) (s : State) : sendLoop n i s = (s, .goto (.poll i)) := by
  simp [sendLoop, h]

theorem sendLoop_ge {n i : Nat} (h : n ≤ i) (s : State) : sendLoop n i s = (s, .goto .pollCr) := by
  simp [sendLoop, Nat.not_lt.2 h]

theorem sendText_bus {p i : Nat} {s : State} (h : readFault s.params (p + i) = none) :
    sendText (.mem p) i s = (s, .goto (.read i)) := by
  simp [sendText, textStep_bus h]

theorem sendText_raised {p i : Nat} {c : FaultCode} {s : State} (h : readFault s.params (p + i) = some c) :
    sendText (.mem p) i s = (s, .raised c) := by
  simp [sendText, textStep_raised h]

theorem sendText_rom (str : List Byte) (i : Nat) (s : State) :
    sendText (.rom str) i s = (s, .goto (.write i (str.getD i 0x00#8))) := rfl

theorem sendAfter_poll_ready {src : TextSrc} {n i : Nat} {v : Byte} {s : State} (h : threSet s.params v = true) :
    sendAfter src n (.poll i) v s = sendText src i s := by
  simp [sendAfter, h]

theorem sendAfter_poll_wait {src : TextSrc} {n i : Nat} {v : Byte} {s : State} (h : threSet s.params v = false) :
    sendAfter src n (.poll i) v s = (s, .goto (.poll i)) := by
  simp [sendAfter, h]

theorem sendAfter_pollCr_ready {src : TextSrc} {n : Nat} {v : Byte} {s : State} (h : threSet s.params v = true) :
    sendAfter src n .pollCr v s = (s, .goto .writeCr) := by
  simp [sendAfter, h]

theorem sendAfter_pollCr_wait {src : TextSrc} {n : Nat} {v : Byte} {s : State} (h : threSet s.params v = false) :
    sendAfter src n .pollCr v s = (s, .goto .pollCr) := by
  simp [sendAfter, h]

theorem sendAfter_pollLf_ready {src : TextSrc} {n : Nat} {v : Byte} {s : State} (h : threSet s.params v = true) :
    sendAfter src n .pollLf v s = (s, .goto .writeLf) := by
  simp [sendAfter, h]

theorem sendAfter_pollLf_wait {src : TextSrc} {n : Nat} {v : Byte} {s : State} (h : threSet s.params v = false) :
    sendAfter src n .pollLf v s = (s, .goto .pollLf) := by
  simp [sendAfter, h]

/-- SendBody changes no state of its own. -/
theorem sendAfter_state (src : TextSrc) (n : Nat) (p : SendPt) (v : Byte) (s : State) :
    (sendAfter src n p v s).1 = s := by
  cases p <;> simp only [sendAfter, sendLoop, sendText] <;> repeat' (first | rfl | split)

/-! ### FillBody -/

theorem fillAfter_char (c : Nat) (v : Byte) (s : State) : fillAfter (.char c) v s = (s, .goto (.attr c)) := rfl

theorem fillAfter_attr_lt {c : Nat} {s : State} (h : c + 1 < cells s.params) (v : Byte) :
    fillAfter (.attr c) v s = (s, .goto (.char (c + 1))) := by
  simp [fillAfter, h]

theorem fillAfter_attr_last {c : Nat} {s : State} (h : cells s.params ≤ c + 1) (v : Byte) :
    fillAfter (.attr c) v s = (s, .ended ()) := by
  simp [fillAfter, Nat.not_lt.2 h]

/-! ### PrintBody -/

theorem printByte_terminator (i col row : Nat) (s : State) :
    printByte i col row 0x00#8 s = (s.setCursor 0 (wrapRow s.params (row + 1)), .ended ()) := rfl

theorem printByte_char {b : Byte} (h : b ≠ 0x00#8) (i col row : Nat) (s : State) :
    printByte i col row b s = (s, .goto (.char i col row b)) := by
  simp [printByte, terminator, h]

theorem printText_bus {p i : Nat} {s : State} (h : readFault s.params (p + i) = none) (col row : Nat) :
    printText (.mem p) i col row s = (s, .goto (.read i col row)) := by
  simp [printText, textStep_bus h]

theorem printText_raised {p i : Nat} {c : FaultCode} {s : State} (h : readFault s.params (p + i) = some c)
    (col row : Nat) : printText (.mem p) i col row s = (s, .raised c) := by
  simp [printText, textStep_raised h]

theorem printText_rom (str : List Byte) (i col row : Nat) (s : State) :
    printText (.rom str) i col row s = printByte i col row (str.getD i 0x00#8) s := rfl

/-! ### PrintAtBody -/

theorem printAtByte_terminator (c i : Nat) (s : State) : printAtByte c i 0x00#8 s = (s, .ended ()) := rfl

theorem printAtByte_char {b : Byte} (h : b ≠ 0x00#8) {c : Nat} {s : State} (hc : c < cells s.params) (i : Nat) :
    printAtByte c i b s = (s, .goto (.char c i b)) := by
  simp [printAtByte, terminator, h, Nat.not_le.2 hc]

theorem printAtByte_overrun {b : Byte} (h : b ≠ 0x00#8) {c : Nat} {s : State} (hc : cells s.params ≤ c) (i : Nat) :
    printAtByte c i b s = (s, .raised .fbOverrun) := by
  simp [printAtByte, terminator, h, hc]

theorem printAtText_bus {p i : Nat} {s : State} (h : readFault s.params (p + i) = none) (c : Nat) :
    printAtText (.mem p) c i s = (s, .goto (.read c i)) := by
  simp [printAtText, textStep_bus h]

theorem printAtText_raised {p i : Nat} {f : FaultCode} {s : State} (h : readFault s.params (p + i) = some f) (c : Nat) :
    printAtText (.mem p) c i s = (s, .raised f) := by
  simp [printAtText, textStep_raised h]

theorem printAtText_rom (str : List Byte) (c i : Nat) (s : State) :
    printAtText (.rom str) c i s = printAtByte c i (str.getD i 0x00#8) s := rfl

theorem printAtStart_bad {col row : Nat} {s : State} (h : s.params.cols ≤ col ∨ s.params.rows ≤ row) (src : TextSrc) :
    printAtStart col row src s = (s, .raised .printatCoord) := by
  have : coordsBad s.params col row = true := by unfold coordsBad; simpa using h
  simp [printAtStart, this]

theorem printAtStart_ok {col row : Nat} {s : State} (hc : col < s.params.cols) (hr : row < s.params.rows)
    (src : TextSrc) : printAtStart col row src s = printAtText src (cellIndex s.params col row) 0 s := by
  have : coordsBad s.params col row = false := by unfold coordsBad; simp; omega
  simp [printAtStart, this]

/-- PrintAtBody changes no state of its own: CURSOR is neither read nor written (41_console R137). -/
theorem printAtAfter_state (src : TextSrc) (p : PrintAtPt) (v : Byte) (s : State) :
    (printAtAfter src p v s).1 = s := by
  cases p <;> simp only [printAtAfter, printAtText, printAtByte] <;> repeat' (first | rfl | split)

end Sys2Proof.Machine
end

