-- ==== Sys2Proof/Laws/Decode.lean ====
section
/-! SUPPORT. The command word's fields as numbers, and the word an encoding is (30_encoding R81, R83). -/

namespace Sys2Proof

theorem opField_toNat (w : Word) : (opField w).toNat = w.toNat % 256 := by simp [opField]

theorem colField_toNat (w : Word) : (colField w).toNat = w.toNat / 256 % 128 := by
  simp [colField, Nat.shiftRight_eq_div_pow]

theorem rowField_toNat (w : Word) : (rowField w).toNat = w.toNat / 32768 % 32 := by
  simp [rowField, Nat.shiftRight_eq_div_pow]

theorem rsvField_toNat (w : Word) : (rsvField w).toNat = w.toNat / 1048576 := by
  have h : w.toNat < 4096 * 1048576 := w.isLt
  simp [rsvField, Nat.shiftRight_eq_div_pow]
  omega

/-- The word of a PRINTAT whose operands fit their fields (30_encoding R87: `0x06 | col<<8 | row<<15`). -/
theorem encode_printat_toNat {col row : Byte} (hc : col.toNat < 128) (hr : row.toNat < 32) :
    (encode (.printat col row)).toNat = 6 + col.toNat * 256 + row.toNat * 32768 := by
  have e1 : col.toNat * 256 % 4294967296 = col.toNat * 256 := Nat.mod_eq_of_lt (by omega)
  have e2 : row.toNat * 32768 % 4294967296 = row.toNat * 32768 := Nat.mod_eq_of_lt (by omega)
  simp only [encode, opcodeOf, BitVec.toNat_or, BitVec.toNat_shiftLeft, BitVec.toNat_setWidth, Nat.shiftLeft_eq,
    BitVec.toNat_ofNat]
  have h1 := Nat.two_pow_add_eq_or_of_lt (i := 8) (b := 6) (by decide) col.toNat
  have h2 := Nat.two_pow_add_eq_or_of_lt (i := 15) (b := 2 ^ 8 * col.toNat + 6) (by omega) row.toNat
  have m1 : col.toNat % 2 ^ 32 * 2 ^ 8 % 2 ^ 32 = 2 ^ 8 * col.toNat := by
    rw [Nat.mod_eq_of_lt (a := col.toNat) (by omega), Nat.mod_eq_of_lt (by omega), Nat.mul_comm]
  have m2 : row.toNat % 2 ^ 32 * 2 ^ 15 % 2 ^ 32 = 2 ^ 15 * row.toNat := by
    rw [Nat.mod_eq_of_lt (a := row.toNat) (by omega), Nat.mod_eq_of_lt (by omega), Nat.mul_comm]
  rw [m1, m2, show 6 % 2 ^ 8 % 2 ^ 32 = 6 by decide, Nat.or_comm 6, ← h1, Nat.or_comm, ← h2]
  omega

/-- The commands without operands are their OP alone (30_encoding R82). -/
theorem encode_plain_toNat :
    (encode .init).toNat = 1 ∧ (encode .txrdy).toNat = 2 ∧ (encode .sendline).toNat = 3 ∧ (encode .clear).toNat = 4 ∧
    (encode .print).toNat = 5 ∧ (encode .panic).toNat = 7 ∧ (encode .boot).toNat = 8 := by decide

/-- A word is PRINTAT's exactly when RSV = 0 and OP = 0x06 (30_encoding R83). -/
theorem decode_printat {w : Word} (hr : rsvField w = 0#12) (ho : opField w = 0x06#8) :
    decode w = .command (.printat ((colField w).setWidth 8) ((rowField w).setWidth 8)) := by
  simp [decode, hr, ho]

/-- Where RSV, COL and ROW are 0 and OP is not 0x06, OP alone decides (30_encoding R83). -/
theorem decode_plain {w : Word} (hr : rsvField w = 0#12) (hc : colField w = 0#7) (hw : rowField w = 0#5)
    (ho : opField w ≠ 0x06#8) : decode w = decodePlain (opField w) := by
  simp [decode, hr, hc, hw, ho]

end Sys2Proof
end

