-- ==== Sys2Proof/Laws/Host.lean ====
section
/-! SUPPORT. What each move of the host can do (10_state R22, 70_reset R225), one lemma for each; callers cite these and do
not unfold the register window. -/

namespace Sys2Proof.Machine

/-! ### Addresses of the register window -/

/-- At or above the base an address is its offset's register, or misaligned (10_state R22). -/
theorem hostPlace_offset (p : Params) (off : Nat) :
    hostPlace p (p.hostBase + off) = if off % 4 = 0 then .reg (hostRegAt off) else .misaligned := by
  unfold hostPlace
  rw [if_neg (by omega), Nat.add_sub_cancel_left]

theorem hostPlace_below {p : Params} {addr : Nat} (h : addr < p.hostBase) : hostPlace p addr = .outside := by
  simp [hostPlace, h]

/-- A write at 0x0C or above has no effect: read-only registers and reserved offsets (10_state R22). -/
theorem hostRegWrite_noEffect {off : Nat} (h : 0x0C ≤ off) (s : State) (v : Word) :
    hostRegWrite s (hostRegAt off) v = .next s := by
  unfold hostRegAt
  rw [if_neg (by omega), if_neg (by omega), if_neg (by omega)]
  repeat' split
  all_goals rfl

/-! ### Reads and writes, by what the address is -/

theorem hostWrite_offset {off : Nat} (h : off % 4 = 0) (s : State) (v : Word) :
    hostWrite s (s.params.hostBase + off) v = hostRegWrite s (hostRegAt off) v := by
  simp [hostWrite, hostPlace_offset, h]

theorem hostRead_offset {off : Nat} (h : off % 4 = 0) (s : State) :
    hostRead s (s.params.hostBase + off) = hostReadReg s (hostRegAt off) := by
  simp [hostRead, hostPlace_offset, h]

/-- A register read that the ENGINE grants: outside BUSY each, while BUSY STATUS and CURSOR (70_reset R225). -/
theorem hostReadReg_granted {s : State} {r : HostReg} (h : s.state ≠ .busy ∨ readableWhileBusy r = true) :
    hostReadReg s r = .next { s with seen := hostRegRead s r :: s.seen } := by
  rcases h with h | h <;> simp [hostReadReg, h]

theorem hostReadReg_refused {s : State} {r : HostReg} (hs : s.state = .busy) (h : readableWhileBusy r = false) :
    hostReadReg s r = .refused .hostReadWhileBusy := by
  simp [hostReadReg, hs, h]

/-- CMD, PTR and LEN are written in IDLE only (92 D28, log 34). -/
theorem hostOperandWrite_idle {s : State} (h : s.state = .idle) (t : State) : hostOperandWrite s t = .next t := by
  simp [hostOperandWrite, h]

/-- Everything a move the host may make while BUSY comes to: the ENGINE's step, or a step of the host that leaves the
command under way as it was, or reset. -/
theorem hostMove_busy {s : State} {m : HostMove} (hb : s.state = .busy) (h : hostMayWhileBusy s.params m)
    (rest : List HostMove) :
    (m = .await ∧ hostMove s m rest = engineBusy s) ∨
    (m = .letRun ∧ hostMove s m rest = engineBusy (s.setHost rest)) ∨
    (m = .reset ∧ hostMove s m rest = .next (s.setHost rest).resetEngine) ∨
    ∃ vs, hostMove s m rest = .next { s with host := rest, seen := vs } := by
  cases m with
  | write addr v =>
    obtain ⟨off, rfl, h4, ho⟩ := h
    refine .inr (.inr (.inr ⟨s.seen, ?_⟩))
    exact (hostWrite_offset (s := s.setHost rest) h4 v).trans (hostRegWrite_noEffect ho _ v)
  | read addr =>
    refine .inr (.inr (.inr ?_))
    rcases h with rfl | rfl
    · exact ⟨_, (hostRead_offset (s := s.setHost rest) (by decide)).trans (hostReadReg_granted (.inr rfl))⟩
    · exact ⟨_, (hostRead_offset (s := s.setHost rest) (by decide)).trans (hostReadReg_granted (.inr rfl))⟩
  | supply a b => exact absurd h id
  | await => exact .inl ⟨rfl, by simp [hostMove, hostAwait, hb]⟩
  | letRun => exact .inr (.inl ⟨rfl, by simp [hostMove, hostLetRun, hb]⟩)
  | reset => exact .inr (.inr (.inl ⟨rfl, rfl⟩))

end Sys2Proof.Machine
end

