-- ==== Sys2Proof/Laws/PerInstr.lean ====
section
/-! SUPPORT. One law for every command of the opcode table: the bits its row fixes (30_encoding R83) are the bits its
encoding has. -/

namespace Sys2Proof.Laws.TableRow

/-- On the mask of its row, the word of a well-formed command is the row's match value, which is its OP (30_encoding
R82, R83: the match/mask pairs). -/
def Statement (i : Instr) : Prop :=
  i.wellFormed = true → encode i &&& encodingMask i = (opcodeOf i).setWidth 32

theorem init : Statement .init := by unfold Statement; decide
theorem txrdy : Statement .txrdy := by unfold Statement; decide
theorem sendline : Statement .sendline := by unfold Statement; decide
theorem clear : Statement .clear := by unfold Statement; decide
theorem print : Statement .print := by unfold Statement; decide

theorem printat (col row : Byte) : Statement (.printat col row) := by
  intro h
  simp [Instr.wellFormed] at h
  apply BitVec.eq_of_getLsbD_eq
  intro i hi
  have hc : ∀ j, 7 ≤ j → col.getLsbD j = false := fun j hj => by
    rw [BitVec.getLsbD, Nat.testBit_lt_two_pow]
    exact Nat.lt_of_lt_of_le h.1 (Nat.pow_le_pow_right (n := 2) (i := 7) (by decide) hj)
  have hr : ∀ j, 5 ≤ j → row.getLsbD j = false := fun j hj => by
    rw [BitVec.getLsbD, Nat.testBit_lt_two_pow]
    exact Nat.lt_of_lt_of_le h.2 (Nat.pow_le_pow_right (n := 2) (i := 5) (by decide) hj)
  have lo : ∀ j, j < 32 → j < 8 → BitVec.getLsbD 0xFFF000FF#32 j = true := by decide
  have mid : ∀ j, j < 32 → ¬ j < 8 → j < 20 →
      BitVec.getLsbD 0xFFF000FF#32 j = false ∧ BitVec.getLsbD (BitVec.setWidth 32 0x06#8) j = false := by decide
  have top : ∀ j, j < 32 → ¬ j < 20 → BitVec.getLsbD (BitVec.setWidth 32 0x06#8) j = false := by decide
  simp only [encode, encodingMask, opcodeOf, BitVec.getLsbD_and, BitVec.getLsbD_or, BitVec.getLsbD_shiftLeft]
  by_cases h8 : i < 8
  · have h15 : i < 15 := by omega
    simp [lo i hi h8, h8, h15]
  · by_cases h20 : i < 20
    · rw [(mid i hi h8 h20).1, (mid i hi h8 h20).2, Bool.and_false]
    · have e1 : col.getLsbD (i - 8) = false := hc _ (by omega)
      have e2 : row.getLsbD (i - 15) = false := hr _ (by omega)
      rw [top i hi h20]
      simp [BitVec.getLsbD_setWidth, e1, e2]

theorem panic : Statement .panic := by unfold Statement; decide
theorem boot : Statement .boot := by unfold Statement; decide

end Sys2Proof.Laws.TableRow
end

