-- ==== Sys2Proof/Laws/Step.lean ====
section
/-! SUPPORT. What one step of a command can do, said once (20_memory R60): the access its SEQ names is performed and the
computation after it lands, or FAULT is entered without an access. -/

namespace Sys2Proof.Machine

/-- The computation inside a body after an access touches CURSOR only. -/
def Computed (u t : State) : Prop := ∃ x y, t = { u with cursorX := x, cursorY := y }

theorem Computed.refl (u : State) : Computed u u := ⟨u.cursorX, u.cursorY, rfl⟩

theorem Computed.setCursor (u : State) (x y : Nat) : Computed u (u.setCursor x y) := ⟨_, _, rfl⟩

theorem Computed.trans {u v t : State} (h : Computed u v) (g : Computed v t) : Computed u t := by
  obtain ⟨_, _, rfl⟩ := h; obtain ⟨_, _, rfl⟩ := g; exact ⟨_, _, rfl⟩

/-- What the end of a step leaves of the state `u` its access gave. -/
structure Landed (u t : State) : Prop where
  params : t.params = u.params
  cmd : t.cmd = u.cmd
  ptr : t.ptr = u.ptr
  len : t.len = u.len
  mem : t.mem = u.mem
  uart : t.uart = u.uart
  history : t.history = u.history
  resets : t.resets = u.resets
  host : t.host = u.host
  seen : t.seen = u.seen
  ends : (t.state = u.state ∧ t.faultCode = u.faultCode ∧ t.faultCmd = u.faultCmd) ∨
    ((t.state = .idle ∨ t.state = .done) ∧ t.seq = .empty ∧ t.faultCode = u.faultCode ∧ t.faultCmd = u.faultCmd) ∨
    (∃ c, t.state = .fault ∧ t.faultCode = some c ∧ t.faultCmd = u.cmd ∧ t.seq = .empty ∧ t.initOk = u.initOk ∧
      t.txrdy = u.txrdy)

theorem Landed.setSeq {u t : State} (h : Computed u t) (q : Seq) : Landed u (t.setSeq q) := by
  obtain ⟨_, _, rfl⟩ := h
  exact ⟨rfl, rfl, rfl, rfl, rfl, rfl, rfl, rfl, rfl, rfl, .inl ⟨rfl, rfl, rfl⟩⟩

theorem Landed.finish {u t : State} (h : Computed u t) : Landed u t.finish := by
  obtain ⟨_, _, rfl⟩ := h
  exact ⟨rfl, rfl, rfl, rfl, rfl, rfl, rfl, rfl, rfl, rfl, .inr (.inl ⟨.inl rfl, rfl, rfl, rfl⟩)⟩

theorem Landed.finishDone {u t : State} (h : Computed u t) : Landed u t.finishDone := by
  obtain ⟨_, _, rfl⟩ := h
  exact ⟨rfl, rfl, rfl, rfl, rfl, rfl, rfl, rfl, rfl, rfl, .inr (.inl ⟨.inr rfl, rfl, rfl, rfl⟩)⟩

theorem Landed.enterFault {u t : State} (h : Computed u t) (c : FaultCode) : Landed u (t.enterFault c) := by
  obtain ⟨_, _, rfl⟩ := h
  exact ⟨rfl, rfl, rfl, rfl, rfl, rfl, rfl, rfl, rfl, rfl, .inr (.inr ⟨c, rfl, rfl, rfl, rfl, rfl, rfl⟩)⟩

/-- A body's flow lands: SEQ moves on, what follows the body runs, or FAULT is entered. -/
theorem landed_land {P R : Type} {place : P → Seq} {follow : R → State → State} {u : State} {r : State × Flow P R}
    (hr : Computed u r.1) (hf : ∀ x t, Computed u t → Landed u (follow x t)) : Landed u (land place follow r) := by
  obtain ⟨t, f⟩ := r
  cases f with
  | goto p => exact Landed.setSeq hr _
  | ended x => exact hf x t hr
  | raised c => exact Landed.enterFault hr c

/-! ### What the computations of the bodies touch -/

theorem computed_sendLoop (n i : Nat) (s : State) : Computed s (sendLoop n i s).1 := by
  unfold sendLoop; split <;> exact .refl s

theorem computed_sendText (src : TextSrc) (i : Nat) (s : State) : Computed s (sendText src i s).1 := by
  unfold sendText; split <;> exact .refl s

theorem computed_sendAfter (src : TextSrc) (n : Nat) (p : SendPt) (v : Byte) (s : State) :
    Computed s (sendAfter src n p v s).1 := by
  rw [sendAfter_state]; exact .refl s

theorem computed_fillAfter (p : FillPt) (v : Byte) (s : State) : Computed s (fillAfter p v s).1 := by
  cases p with
  | char c => exact .refl s
  | attr c => unfold fillAfter; dsimp only; split <;> exact .refl s

theorem computed_printByte (i col row : Nat) (b : Byte) (s : State) : Computed s (printByte i col row b s).1 := by
  unfold printByte; split
  · exact .setCursor s _ _
  · exact .refl s

theorem computed_printText (src : TextSrc) (i col row : Nat) (s : State) : Computed s (printText src i col row s).1 := by
  unfold printText; split
  · exact .refl s
  · exact .refl s
  · exact computed_printByte _ _ _ _ s

theorem computed_printAfter (src : TextSrc) (p : PrintPt) (v : Byte) (s : State) :
    Computed s (printAfter src p v s).1 := by
  cases p with
  | read i col row => exact computed_printByte _ _ _ _ s
  | char i col row b => exact .refl s
  | attr i col row => exact (Computed.setCursor s _ _).trans (computed_printText _ _ _ _ _)

theorem computed_printAtByte (c i : Nat) (b : Byte) (s : State) : Computed s (printAtByte c i b s).1 := by
  unfold printAtByte; repeat' split
  all_goals exact .refl s

theorem computed_printAtText (src : TextSrc) (c i : Nat) (s : State) : Computed s (printAtText src c i s).1 := by
  unfold printAtText; split
  · exact .refl s
  · exact .refl s
  · exact computed_printAtByte _ _ _ s

theorem computed_printAtStart (col row : Nat) (src : TextSrc) (s : State) :
    Computed s (printAtStart col row src s).1 := by
  unfold printAtStart; split
  · exact .refl s
  · exact computed_printAtText _ _ _ s

theorem computed_printAtAfter (src : TextSrc) (p : PrintAtPt) (v : Byte) (s : State) :
    Computed s (printAtAfter src p v s).1 := by
  cases p with
  | read c i => exact computed_printAtByte _ _ _ s
  | char c i b => exact computed_printAtText _ _ _ s

/-! ### What the landings touch -/

theorem landed_sendlineLand {u : State} {r : State × Flow SendPt Unit} (h : Computed u r.1) : Landed u (sendlineLand r) :=
  landed_land h fun _ _ => .finish

theorem landed_clearLand {u : State} {r : State × Flow FillPt Unit} (h : Computed u r.1) : Landed u (clearLand r) :=
  landed_land h fun _ _ => .finish

theorem landed_printLand {u : State} {r : State × Flow PrintPt Unit} (h : Computed u r.1) : Landed u (printLand r) :=
  landed_land h fun _ _ => .finish

theorem landed_printatLand {u : State} {r : State × Flow PrintAtPt Unit} (h : Computed u r.1) :
    Landed u (printatLand r) :=
  landed_land h fun _ _ => .finish

theorem landed_panicMsgLand {u : State} {r : State × Flow PrintAtPt Unit} (h : Computed u r.1) :
    Landed u (panicMsgLand r) :=
  landed_land h fun _ _ => .finish

theorem landed_panicFillLand {u : State} {r : State × Flow FillPt Unit} (h : Computed u r.1) :
    Landed u (panicFillLand r) :=
  landed_land h fun _ _ ht => landed_panicMsgLand (ht.trans (computed_printAtStart _ _ _ _))

theorem landed_bootSendLand {u : State} {r : State × Flow SendPt Unit} (h : Computed u r.1) :
    Landed u (bootSendLand r) :=
  landed_land h fun _ _ => .finishDone

theorem landed_bootPrintLand {u : State} {r : State × Flow PrintPt Unit} (h : Computed u r.1) :
    Landed u (bootPrintLand r) :=
  landed_land h fun _ _ ht => landed_bootSendLand (ht.trans (computed_sendLoop _ _ _))

theorem landed_bootMsgLand {u : State} {r : State × Flow PrintAtPt Unit} (h : Computed u r.1) :
    Landed u (bootMsgLand r) :=
  landed_land h fun _ _ ht => landed_bootPrintLand (ht.trans (computed_printText _ _ _ _ _))

theorem landed_bootFillLand {u : State} {r : State × Flow FillPt Unit} (h : Computed u r.1) :
    Landed u (bootFillLand r) :=
  landed_land h fun _ _ ht => landed_bootMsgLand (ht.trans (computed_printAtStart _ _ _ _))

theorem landed_bootClearLand {u : State} {r : State × Flow FillPt Unit} (h : Computed u r.1) :
    Landed u (bootClearLand r) :=
  landed_land h fun _ _ ht => .setSeq ht _

/-- PrintBody of a Rom text never raises a fault: BOOT's Print phase goes on to an access of its own or of SendBody. -/
theorem bootPrintLand_rom (s : State) :
    ∃ x y q, bootPrintLand (printStart (bootText s) s) = { s with cursorX := x, cursorY := y, seq := q } := by
  unfold printStart bootText
  rw [printText_rom]
  unfold printByte
  split
  · simp only [bootPrintLand, land_ended]
    unfold sendLoop
    split <;> exact ⟨_, _, _, rfl⟩
  · exact ⟨_, _, _, rfl⟩

/-- InitBody's end: INIT_OK, then IDLE. -/
theorem initLand_after (p : InitPt) (v : Byte) (u : State) :
    (∃ q, initLand (initAfter p v u) = u.setSeq (.init q)) ∨
      ∃ b, (p = .rbr ∨ p = .mcrFinal) ∧ initLand (initAfter p v u) = (u.setInitOk b).finish := by
  cases p with
  | rbr =>
    by_cases h : v = u.params.testByte
    · rw [initAfter_rbr_match h]; exact .inl ⟨_, rfl⟩
    · rw [initAfter_rbr_mismatch h]; exact .inr ⟨_, .inl rfl, rfl⟩
  | mcrFinal => exact .inr ⟨_, .inr rfl, rfl⟩
  | _ => exact .inl ⟨_, rfl⟩

theorem bootInitLand_after (p : InitPt) (v : Byte) (u : State) :
    (∃ q, bootInitLand (initAfter p v u) = u.setSeq (.bootInit q)) ∨
      (p = .rbr ∧ bootInitLand (initAfter p v u) = (u.setInitOk false).setSeq (.bootFill (.char 0))) ∨
      (p = .mcrFinal ∧ bootInitLand (initAfter p v u) =
        bootPrintLand (printStart (bootText (u.setInitOk true)) (u.setInitOk true))) := by
  cases p with
  | rbr =>
    by_cases h : v = u.params.testByte
    · rw [initAfter_rbr_match h]; exact .inl ⟨_, rfl⟩
    · rw [initAfter_rbr_mismatch h]; exact .inr (.inl ⟨rfl, rfl⟩)
  | mcrFinal => exact .inr (.inr ⟨rfl, rfl⟩)
  | _ => exact .inl ⟨_, rfl⟩

theorem Landed.setInitOk {u t : State} (b : Bool) (h : Landed (u.setInitOk b) t)
    (hs : (t.state = u.state ∧ t.faultCode = u.faultCode ∧ t.faultCmd = u.faultCmd) ∨
    ((t.state = .idle ∨ t.state = .done) ∧ t.seq = .empty ∧ t.faultCode = u.faultCode ∧ t.faultCmd = u.faultCmd)) :
    Landed u t :=
  ⟨h.params, h.cmd, h.ptr, h.len, h.mem, h.uart, h.history, h.resets, h.host, h.seen,
    hs.elim .inl fun h => .inr (.inl h)⟩

theorem landed_initLand (p : InitPt) (v : Byte) (u : State) : Landed u (initLand (initAfter p v u)) := by
  rcases initLand_after p v u with ⟨q, h⟩ | ⟨b, _, h⟩ <;> rw [h]
  · exact .setSeq (.refl u) _
  · exact Landed.setInitOk b (.finish (.refl _)) (.inr ⟨.inl rfl, rfl, rfl, rfl⟩)

theorem landed_bootInitLand (p : InitPt) (v : Byte) (u : State) : Landed u (bootInitLand (initAfter p v u)) := by
  rcases bootInitLand_after p v u with ⟨q, h⟩ | ⟨_, h⟩ | ⟨_, h⟩ <;> rw [h]
  · exact .setSeq (.refl u) _
  · exact Landed.setInitOk false (.setSeq (.refl _) _) (.inl ⟨rfl, rfl, rfl⟩)
  · obtain ⟨x, y, q, h⟩ := bootPrintLand_rom (u.setInitOk true)
    rw [h]
    exact ⟨rfl, rfl, rfl, rfl, rfl, rfl, rfl, rfl, rfl, rfl, .inl ⟨rfl, rfl, rfl⟩⟩

theorem landed_txrdyLand (v : Byte) (u : State) : Landed u (txrdyLand (txrdyAfter () v u)) :=
  ⟨rfl, rfl, rfl, rfl, rfl, rfl, rfl, rfl, rfl, rfl, .inr (.inl ⟨.inl rfl, rfl, rfl, rfl⟩)⟩

/-! ### One step of a command -/

section Body
variable {P R : Type} {access : P → State → Option Access} {after : P → Byte → State → State × Flow P R}
  {landing : State × Flow P R → State} {p : P} {s t : State}

/-- What a step of a command comes to, for the access `x` it names (20_memory R60). -/
def Stepped (s t : State) (x : Option Access) : Prop :=
  (∃ a v u, x = some a ∧ s.perform a = .got v u ∧ Landed u t) ∨
    ((x = none ∨ ∃ a c, x = some a ∧ s.perform a = .raised c) ∧ ∃ c, t = s.enterFault c)

theorem stepped_runAccess (hl : ∀ v u, Landed u (landing (after p v u)))
    (h : runAccess access after landing p s = .next t) : Stepped s t (access p s) := by
  obtain ⟨x, hx, ⟨v, u, hp, rfl⟩ | ⟨c, hp, rfl⟩⟩ := runAccess_next h
  · exact .inl ⟨x, v, u, hx, hp, hl v u⟩
  · exact .inr ⟨.inr ⟨x, c, hx, hp⟩, c, rfl⟩

end Body

/-- The text operand in memory starts a body with an access at the state as it is, or with a fault. -/
theorem printStart_mem (s : State) :
    (printStart (ptrText s) s = (s, .goto (.read 0 0 s.cursorY.toNat)) ∧ readFault s.params s.ptr.toNat = none) ∨
      ∃ c, printStart (ptrText s) s = (s, .raised c) ∧ readFault s.params s.ptr.toNat = some c := by
  unfold printStart ptrText
  rcases h : readFault s.params (s.ptr.toNat + 0) with _ | c
  · exact .inl ⟨printText_bus h 0 s.cursorY.toNat, rfl⟩
  · exact .inr ⟨c, printText_raised h 0 s.cursorY.toNat, rfl⟩

theorem printAtStart_mem (col row : Nat) (s : State) :
    (printAtStart col row (ptrText s) s = (s, .goto (.read (cellIndex s.params col row) 0)) ∧
        col < s.params.cols ∧ row < s.params.rows ∧ readFault s.params s.ptr.toNat = none) ∨
      ∃ c, printAtStart col row (ptrText s) s = (s, .raised c) := by
  by_cases hb : s.params.cols ≤ col ∨ s.params.rows ≤ row
  · exact .inr ⟨_, printAtStart_bad hb _⟩
  · have h1 : col < s.params.cols := by omega
    have h2 : row < s.params.rows := by omega
    rw [printAtStart_ok h1 h2]
    unfold ptrText
    rcases h : readFault s.params (s.ptr.toNat + 0) with _ | c
    · exact .inl ⟨printAtText_bus h _, h1, h2, rfl⟩
    · exact .inr ⟨c, printAtText_raised h _⟩

/-- Everything a step of a command can do: the access its SEQ names, performed, and the computation after it; or fault
entry without an access. -/
theorem exec_next {i : Instr} {s t : State} (h : exec i s = .next t) : Stepped s t (nextAccess i s) := by
  cases i with
  | init =>
    simp only [exec, execInit] at h
    split at h
    · rename_i hq; simp only [nextAccess, initNext, hq]; exact stepped_runAccess (landed_initLand _) h
    · rename_i q hq; simp only [nextAccess, initNext, hq]; exact stepped_runAccess (landed_initLand _) h
    · cases h
  | txrdy =>
    simp only [exec, execTxrdy] at h
    split at h
    · rename_i hq; simp only [nextAccess, txrdyNext, hq]; exact stepped_runAccess landed_txrdyLand h
    · cases h
  | sendline =>
    simp only [exec, execSendline] at h
    split at h
    · rename_i hq
      simp only [nextAccess, sendlineNext, hq]
      have key : ∀ p, (sendLoop (lenCount s) 0 s) = (s, .goto p) → Stepped s t (firstAccess (sendAccess (ptrText s)) (sendLoop (lenCount s) 0 s)) := by
        intro p hp
        rw [hp] at h ⊢
        exact stepped_runAccess (fun v u => landed_sendlineLand (computed_sendAfter _ _ _ _ _)) h
      by_cases hl : 0 < lenCount s
      · exact key _ (sendLoop_lt hl s)
      · exact key _ (sendLoop_ge (by omega) s)
    · rename_i q hq
      simp only [nextAccess, sendlineNext, hq]
      exact stepped_runAccess (fun v u => landed_sendlineLand (computed_sendAfter _ _ _ _ _)) h
    · cases h
  | clear =>
    simp only [exec, execClear] at h
    split at h
    · rename_i hq; simp only [nextAccess, clearNext, hq]
      exact stepped_runAccess (fun v u => landed_clearLand (computed_fillAfter _ _ _)) h
    · rename_i q hq; simp only [nextAccess, clearNext, hq]
      exact stepped_runAccess (fun v u => landed_clearLand (computed_fillAfter _ _ _)) h
    · cases h
  | print =>
    simp only [exec, execPrint] at h
    split at h
    · rename_i hq; simp only [nextAccess, printNext, hq]
      rcases printStart_mem s with ⟨hp, _⟩ | ⟨c, hp, _⟩ <;> rw [hp] at h ⊢
      · rw [runStart_goto] at h
        exact stepped_runAccess (fun v u => landed_printLand (computed_printAfter _ _ _ _)) h
      · cases h; exact .inr ⟨.inl rfl, c, rfl⟩
    · rename_i q hq; simp only [nextAccess, printNext, hq]
      exact stepped_runAccess (fun v u => landed_printLand (computed_printAfter _ _ _ _)) h
    · cases h
  | printat col row =>
    simp only [exec, execPrintat] at h
    split at h
    · rename_i hq; simp only [nextAccess, printatNext, hq]
      rcases printAtStart_mem col.toNat row.toNat s with ⟨hp, _⟩ | ⟨c, hp⟩ <;> rw [hp] at h ⊢
      · rw [runStart_goto] at h
        exact stepped_runAccess (fun v u => landed_printatLand (computed_printAtAfter _ _ _ _)) h
      · cases h; exact .inr ⟨.inl rfl, c, rfl⟩
    · rename_i q hq; simp only [nextAccess, printatNext, hq]
      exact stepped_runAccess (fun v u => landed_printatLand (computed_printAtAfter _ _ _ _)) h
    · cases h
  | panic =>
    simp only [exec, execPanic] at h
    split at h
    · rename_i hq; simp only [nextAccess, panicNext, hq]
      exact stepped_runAccess (fun v u => landed_panicFillLand (computed_fillAfter _ _ _)) h
    · rename_i q hq; simp only [nextAccess, panicNext, hq]
      exact stepped_runAccess (fun v u => landed_panicFillLand (computed_fillAfter _ _ _)) h
    · rename_i q hq; simp only [nextAccess, panicNext, hq]
      exact stepped_runAccess (fun v u => landed_panicMsgLand (computed_printAtAfter _ _ _ _)) h
    · cases h
  | boot =>
    simp only [exec, execBoot] at h
    split at h
    · rename_i hq; simp only [nextAccess, bootNext, hq]
      exact stepped_runAccess (fun v u => landed_bootClearLand (computed_fillAfter _ _ _)) h
    · rename_i q hq; simp only [nextAccess, bootNext, hq]
      exact stepped_runAccess (fun v u => landed_bootClearLand (computed_fillAfter _ _ _)) h
    · rename_i q hq; simp only [nextAccess, bootNext, hq]
      exact stepped_runAccess (landed_bootInitLand _) h
    · rename_i q hq; simp only [nextAccess, bootNext, hq]
      exact stepped_runAccess (fun v u => landed_bootFillLand (computed_fillAfter _ _ _)) h
    · rename_i q hq; simp only [nextAccess, bootNext, hq]
      exact stepped_runAccess (fun v u => landed_bootMsgLand (computed_printAtAfter _ _ _ _)) h
    · rename_i q hq; simp only [nextAccess, bootNext, hq]
      exact stepped_runAccess (fun v u => landed_bootPrintLand (computed_printAfter _ _ _ _)) h
    · rename_i q hq; simp only [nextAccess, bootNext, hq]
      exact stepped_runAccess (fun v u => landed_bootSendLand (computed_sendAfter _ _ _ _ _)) h
    · cases h

end Sys2Proof.Machine
end

