-- ==== Sys2Proof/Tests/Slice0.lean ====
section
/-! SUPPORT. Tests: ill-formed terms refused, words written out bit by bit from the spec's encoding, vectors of
95_test_vectors one step at a time, and for every statement a state and operands that meet its hypotheses. -/

namespace Sys2Proof.Tests

open Sys2Proof.Machine

/-! ### States the tests start from -/

/-- The reference parameters of 95_test_vectors with three text bytes READABLE at 0x1000. -/
def platform : Params := { referenceParams with readable := [⟨0x1000, 3⟩] }

/-- A command word in CMD and running, SEQ at `q`, "AB" and the terminator at PTR = 0x1000. -/
def running (w : Nat) (q : Seq) : State :=
  { State.reset.withFetchWord 32 w with
    params := platform
    ptr := 0x1000#32
    seq := q
    mem := [(0x1000, 0x41#8), (0x1001, 0x42#8), (0x1002, 0x00#8)] }

/-- The oracle FIX[v0, v1, ...] of 95_test_vectors. -/
def answering (vs : List Byte) (s : State) : State := { s with uart := { s.uart with answers := vs } }

/-- The state a step answers. -/
def nextOf : Host.Outcome State Fault Refusal → Option State
  | .next t => some t
  | .fault _ => none
  | .refused _ => none

/-- A state with host moves to come. -/
def hosted (st : EngState) (moves : List HostMove) : State :=
  { State.reset with params := platform, state := st, host := moves }

/-! ### Well-formedness (30_encoding R81) -/

/-- COL has 7 bits. -/
theorem test_col_too_wide_is_ill_formed : (Instr.printat 128#8 0#8).wellFormed = false := by decide

/-- ROW has 5 bits. -/
theorem test_row_too_wide_is_ill_formed : (Instr.printat 0#8 32#8).wellFormed = false := by decide

/-- Coordinates off the screen are well formed (30_encoding R85). -/
theorem test_off_screen_is_well_formed : (Instr.printat 127#8 31#8).wellFormed = true := by decide

/-! ### Decoding: RSV, ROW, COL, OP written out (30_encoding R81, R82) -/

theorem test_decode_init : decode (0b000000000000#12 ++ 0b00000#5 ++ 0b0000000#7 ++ 0b00000001#8) = .command .init := by
  decide
theorem test_decode_txrdy : decode (0b000000000000#12 ++ 0b00000#5 ++ 0b0000000#7 ++ 0b00000010#8) = .command .txrdy := by
  decide
theorem test_decode_sendline :
    decode (0b000000000000#12 ++ 0b00000#5 ++ 0b0000000#7 ++ 0b00000011#8) = .command .sendline := by decide
theorem test_decode_clear : decode (0b000000000000#12 ++ 0b00000#5 ++ 0b0000000#7 ++ 0b00000100#8) = .command .clear := by
  decide
theorem test_decode_print : decode (0b000000000000#12 ++ 0b00000#5 ++ 0b0000000#7 ++ 0b00000101#8) = .command .print := by
  decide
/-- COL = 79, ROW = 24: the last cell. -/
theorem test_decode_printat :
    decode (0b000000000000#12 ++ 0b11000#5 ++ 0b1001111#7 ++ 0b00000110#8) = .command (.printat 79#8 24#8) := by decide
theorem test_decode_panic : decode (0b000000000000#12 ++ 0b00000#5 ++ 0b0000000#7 ++ 0b00000111#8) = .command .panic := by
  decide
theorem test_decode_boot : decode (0b000000000000#12 ++ 0b00000#5 ++ 0b0000000#7 ++ 0b00001000#8) = .command .boot := by
  decide

/-- V-DEC-3 to V-DEC-9. -/
theorem test_decode_illegal :
    decode 0x00000000#32 = .illegal .opcode ∧ decode 0x00000009#32 = .illegal .opcode ∧
    decode 0x000000FF#32 = .illegal .opcode ∧ decode 0x00000101#32 = .illegal .operandBits ∧
    decode 0x00008001#32 = .illegal .operandBits ∧ decode 0x00100001#32 = .illegal .reservedBits ∧
    decode 0x80000005#32 = .illegal .reservedBits := by decide

/-! ### One step of each command (95_test_vectors 2.1 to 2.9) -/

/-- V-DEC-9: an illegal word faults 0x01 with FAULT_CMD and no event. -/
theorem test_illegal_word_faults :
    (nextOf (step (running 0x80000005 .empty))).map (fun t => (t.state, t.faultCode, t.faultCmd, t.history)) =
      some (.fault, some .illegalCmd, 0x80000005#32, []) := by decide

/-- V-INIT-2: a readback of 0x54 fails, and nothing is written after it. -/
theorem test_init_fails_on_54 :
    (nextOf (step (answering [0x54#8] (running 1 (.init .rbr))))).map (fun t => (t.state, t.initOk, t.history)) =
      some (.idle, false, [.pr 0x3F8#16 0x54#8]) := by decide

/-- V-INIT-1: the first of the nine writes. -/
theorem test_init_writes_ier_first :
    (nextOf (step (running 1 .empty))).map (fun t => t.history) = some [.pw 0x3F9#16 0x00#8] := by decide

/-- V-TX-1. -/
theorem test_txrdy_sees_thre :
    (nextOf (step (answering [0x20#8] (running 2 .empty)))).map (fun t => (t.txrdy, t.state, t.history)) =
      some (true, .idle, [.pr 0x3FD#16 0x20#8]) := by decide

/-- V-TX-6: all bits but THRE. -/
theorem test_txrdy_ignores_other_bits :
    (nextOf (step (answering [0xDF#8] (running 2 .empty)))).map (fun t => t.txrdy) = some false := by decide

/-- V-SEND-5: the poll comes before the text byte, whose fault belongs to the poll's step; no CR LF. -/
theorem test_sendline_faults_after_poll :
    (nextOf (step (answering [0x60#8] { running 3 (.sendline (.poll 3)) with len := 4#32 }))).map
      (fun t => (t.state, t.faultCode, t.history)) = some (.fault, some .srcUnmapped, [.pr 0x3FD#16 0x60#8]) := by
  decide

/-- V-SEND-3: LEN = 0 goes to the CR's poll. -/
theorem test_sendline_of_nothing_polls_for_cr :
    (nextOf (step (answering [0x60#8] (running 3 .empty)))).map (fun t => (t.seq, t.history)) =
      some (.sendline .writeCr, [.pr 0x3FD#16 0x60#8]) := by decide

/-- V-CLEAR-1: the last write. -/
theorem test_clear_ends_at_the_last_byte :
    (nextOf (step (running 4 (.clear (.attr 1999))))).map (fun t => (t.state, t.history)) =
      some (.idle, [.mw 0xB8F9F 0x00#8]) := by decide

/-- V-PRINT-2: the empty text on row 24 takes the row to 0. -/
theorem test_print_empty_wraps_the_row :
    (nextOf (step { running 5 .empty with ptr := 0x1002#32, cursorY := 24#8 })).map
      (fun t => (t.cursorX, t.cursorY, t.history)) = some (0#8, 0#8, [.mr 0x1002 0x00#8]) := by decide

/-- V-PRINT-6: after column 79 of row 24 the next character goes to (0,0). -/
theorem test_print_wraps_the_screen :
    (nextOf (step (running 5 (.print (.attr 0 79 24))))).map (fun t => (t.seq, t.cursorX, t.cursorY, t.history)) =
      some (.print (.read 1 0 0), 0#8, 0#8, [.mw 0xB8F9F 0x0F#8]) := by decide

/-- V-PAT-4: the second character at (79,24) is read, not written. -/
theorem test_printat_overruns :
    (nextOf (step (running 0x000C4F06 (.printat (.read 2000 1))))).map (fun t => (t.faultCode, t.history)) =
      some (some .fbOverrun, [.mr 0x1001 0x42#8]) := by decide

/-- V-PAT-6: ROW = 25 faults before any access. -/
theorem test_printat_row_25_faults :
    (nextOf (step (running 0x000C8006 .empty))).map (fun t => (t.state, t.faultCode, t.history)) =
      some (.fault, some .printatCoord, []) := by decide

/-- V-PANIC-1: the fill's last write, then the message at cell 1000. -/
theorem test_panic_message_follows_the_fill :
    (nextOf (step (running 7 (.panicFill (.attr 1999))))).map (fun t => (t.seq, t.history)) =
      some (.panicMsg (.read 1000 0), [.mw 0xB8F9F 0x1F#8]) := by decide

/-- V-PANIC-1: MW(0xB87D0,0x43) writes a character, no attribute. -/
theorem test_panic_message_writes_cell_1000 :
    (nextOf (step (running 7 (.panicMsg (.char 1000 0 0x43#8))))).map (fun t => (t.seq, t.history)) =
      some (.panicMsg (.read 1001 1), [.mw 0xB87D0 0x43#8]) := by decide

/-- V-BOOT-2: after a failed self-test the panic fill comes next. -/
theorem test_boot_goes_on_after_failure :
    (nextOf (step (answering [0x00#8] (running 8 (.bootInit .rbr))))).map (fun t => (t.seq, t.initOk)) =
      some (.bootFill (.char 0), false) := by decide

/-- V-BOOT-1: the last write ends in DONE. -/
theorem test_boot_ends_in_done :
    (nextOf (step (running 8 (.bootSend .writeLf)))).map (fun t => (t.state, t.history)) =
      some (.done, [.pw 0x3F8#16 0x0A#8]) := by decide

/-! ### Witnesses: states and operands that meet the hypotheses of each statement -/

theorem test_witness_DecodeIsTotalByFields :
    (0x00100001 / 1048576 ≠ 0) ∧ (0x000FFF06 / 1048576 = 0 ∧ 0x000FFF06 % 256 = 0x06) ∧
    (0x00008001 / 1048576 = 0 ∧ 0x00008001 % 256 ≠ 0x06 ∧ 0x00008001 / 32768 % 32 ≠ 0) ∧
    (0x000000FF / 1048576 = 0 ∧ 0x000000FF / 256 % 128 = 0 ∧ 0x000000FF / 32768 % 32 = 0 ∧ 0x09 ≤ 0x000000FF % 256) ∧
    (running 0x80000005 .empty).host = [] ∧ (running 0x80000005 .empty).state = .busy ∧
    decode (running 0x80000005 .empty).cmd = .illegal .reservedBits := by decide

theorem test_witness_DecodeOfEncode : (Instr.printat 127#8 31#8).wellFormed = true := by decide

theorem test_witness_EncodeOfDecode : decode 0x000FFF06#32 = .command (.printat 127#8 31#8) := by decide

theorem test_witness_StepRunsTheDecodedCommand :
    (running 4 .empty).state = .busy ∧ decodeTableWord 32 (running 4 .empty).cmd.toNat = some .clear ∧
    (running 4 .empty).host = [] ∧ { running 4 .empty with host := [.await] }.host = [.await] ∧
    { running 4 .empty with host := [.letRun] }.host = [.letRun] := by decide

theorem test_witness_PlacedCommandRunsNext : decodeTableWord 32 0x00000008 = some .boot := by decide

theorem test_witness_OnlyResetLeavesDoneAndFault :
    (hosted .done []).state = .done ∧ (hosted .fault []).state = .fault ∧ (hosted .fault []).host = [] ∧
    (hosted .done [.write platform.hostBase 1#32]).host = [.write platform.hostBase 1#32] ∧
    (∃ t, step (hosted .done [.reset]) = .next t) ∧ (∃ t, step (hosted .fault [.read 0x0C]) = .next t) :=
  ⟨rfl, rfl, rfl, rfl, ⟨_, rfl⟩, ⟨_, rfl⟩⟩

/-- An access made, and a fault entered without one. -/
theorem test_witness_OneAccessPerStep :
    (∃ t, exec .clear (running 4 .empty) = .next t ∧ nextAccess .clear (running 4 .empty) ≠ none) ∧
    (∃ t, exec (.printat 80#8 0#8) (running 6 .empty) = .next t ∧
      nextAccess (.printat 80#8 0#8) (running 6 .empty) = none) :=
  ⟨⟨_, rfl, by decide⟩, ⟨_, rfl, by decide⟩⟩

/-- FAULT_CMD in FAULT, STATUS while BUSY, the writes in IDLE, the first read-only offset, a window base above 0. -/
theorem test_witness_HostRegisterWindow :
    (hosted .fault [.read (platform.hostBase + 0x14)]).host = [.read (platform.hostBase + 0x14)] ∧
    (hosted .fault []).state ≠ .busy ∧ (hosted .busy [.read (platform.hostBase + 0x0C)]).state = .busy ∧
    (hosted .idle [.write (platform.hostBase + 0x08) 1#32]).state = .idle ∧ 0x0C % 4 = 0 ∧ 0x14 % 4 = 0 ∧
    (hosted .busy [.write (platform.hostBase + 0x0C) 1#32]).host = [.write (platform.hostBase + 0x0C) 1#32] ∧
    (0xFFC < { platform with hostBase := 0x1000 }.hostBase ∧ 0x02 % 4 ≠ 0) := by decide

theorem test_witness_HostDutiesStopTheModel :
    (hosted .busy [.write (platform.hostBase + 0x08) 1#32]).state = .busy ∧
    (hosted .done [.write (platform.hostBase + 0x04) 1#32]).state = .done ∧
    (hosted .busy [.read (platform.hostBase + 0x14)]).state = .busy ∧
    (hosted .busy [.supply 0x1000 1#8]).state = .busy ∧ (hosted .idle [.supply 0xB8000 1#8]).state ≠ .busy ∧
    inFb platform 0xB8F9F = true ∧ isReadable platform 0x1003 = false ∧ 2 ^ platform.addrWidth ≤ 0x100000000 := by
  decide

/-- 70_reset R225: PTR does not land in FAULT, and FAULT_CMD is not read while BUSY. -/
theorem test_host_duties :
    step (hosted .fault [.write 0x04 1#32]) = .fault .hostWriteWhenStopped ∧
    step (hosted .busy [.read 0x14]) = .refused .hostReadWhileBusy := ⟨rfl, rfl⟩

/-- 10_state R22: with the window at 0x4000, PTR is at 0x4004 and 0x0004 is no register of this block. -/
theorem test_window_base :
    (nextOf (step { hosted .idle [.write 0x4004 7#32] with params := { platform with hostBase := 0x4000 } })).map
      (fun t => t.ptr) = some 7#32 ∧
    step { hosted .idle [.write 0x0004 7#32] with params := { platform with hostBase := 0x4000 } } =
      .fault .hostOutsideWindow := ⟨by decide, rfl⟩

/-- 10_state R42: FCR 0xFF leaves FE, DMS and RTL, and empties both FIFOs. -/
theorem test_fcr_keeps_its_fields :
    ({ Uart.reset with rx := [1#8], tx := [2#8] }.refWrite true .fifoControl 0xFF#8) =
      { Uart.reset with fcr := 0xC9#8 } := by decide

theorem test_witness_SuppliedTextIsRead :
    (hosted .idle [.supply 0x1002 1#8]).state ≠ .busy ∧ inFb platform 0x1002 = false ∧
    isReadable platform 0x1002 = true ∧ 0x1002 < 2 ^ platform.addrWidth := by decide

theorem test_witness_ResetFromAnyState :
    (hosted .busy [.reset, .await]).host = .reset :: [.await] ∧ inFb platform 0xB8000 = true ∧
    inFb platform 0x1000 = false := by decide

/-- 79 and 80, 24 and 25: the coordinates where the clauses meet. -/
theorem test_witness_PrintatCoordFaultsWhenRun :
    ((127#8).toNat < 128 ∧ (31#8).toNat < 32) ∧ (running 6 .empty).seq = .empty ∧ platform.cols ≤ (80#8).toNat ∧
    platform.rows ≤ (25#8).toNat ∧ ¬ (platform.cols ≤ (79#8).toNat ∨ platform.rows ≤ (24#8).toNat) := by decide

/-- An unmapped byte behind the text, and the address 2^32. -/
theorem test_witness_TextFaultsAtTheTextByte :
    (0x1003 < 2 ^ platform.addrWidth ∧ inFb platform 0x1003 = false ∧ isReadable platform 0x1003 = false) ∧
    2 ^ platform.addrWidth ≤ (0xFFFFFFFF#32).toNat + 1 ∧
    0x1003 = { running 5 .empty with ptr := 0x1003#32 }.ptr.toNat ∧ 0x1003 = (running 5 .empty).ptr.toNat + (2 + 1) ∧
    3 < { running 3 .empty with len := 4#32 }.len.toNat ∧ 1999 + 1 = cells platform ∧
    platform.panicCol < platform.cols ∧ platform.panicRow < platform.rows ∧
    0x1003 = (running 7 (.panicMsg (.char 1002 2 0x43#8))).ptr.toNat + (2 + 1) ∧ 1002 < cells platform ∧
    0x1003 = (running 5 (.print (.attr 2 79 24))).ptr.toNat + (2 + 1) ∧ 79 < platform.cols ∧ 24 < platform.rows ∧
    (answering [0x20#8] (running 3 .empty)).portAnswer .lineStatus &&& platform.threMask ≠ 0#8 := by decide

/-- Cell 2000, with a character and with the terminator. -/
theorem test_witness_OverrunFaultsBeforeTheWrite :
    cells platform ≤ 2000 ∧
    Admitted (running 6 (.printat (.read 2000 1))) (0x1000 + 1) ∧
    (running 6 (.printat (.read 2000 1))).byteAt (0x1000 + 1) ≠ 0#8 ∧
    Admitted (running 7 (.panicMsg (.read 2000 2))) (0x1000 + 2) ∧
    (running 7 (.panicMsg (.read 2000 2))).byteAt (0x1000 + 2) = 0#8 := by unfold Admitted; decide

theorem test_witness_FaultEntryRecordsTheCommand :
    (running 6 .empty).state = .busy ∧
    (∃ t, exec (.printat 80#8 0#8) (running 6 .empty) = .next t ∧ t.state = .fault) ∧
    Instr.printat 80#8 0#8 ≠ .print ∧
    (∃ t, exec .clear (running 4 .empty) = .next t ∧ t.state ≠ .fault) :=
  ⟨rfl, ⟨_, rfl, rfl⟩, by decide, ⟨_, rfl, by decide⟩⟩

theorem test_witness_InitMakesItsAccessesInOrder :
    (running 1 .empty).seq = .empty ∧ (running 1 (.init .rbr)).seq = .init .rbr ∧
    (answering [0x55#8] (running 1 (.init .rbr))).portAnswer .data = platform.testByte ∧
    (answering [0x54#8] (running 1 (.init .rbr))).portAnswer .data ≠ platform.testByte := by decide

theorem test_witness_SelfTestLaw : Started (running 1 .empty) .init := by unfold Started; decide

theorem test_witness_TxrdyReadsLsrOnce :
    (running 2 .empty).seq = .empty ∧ (running 2 .empty).params.threMask = 0x20#8 := ⟨rfl, rfl⟩

theorem test_witness_SendlineMakesItsAccessesInOrder :
    (running 3 .empty).seq = .empty ∧ (SendPt.pollCr = if 0 < (running 3 .empty).len.toNat then .poll 0 else .pollCr) ∧
    (answering [0xDF#8] (running 3 (.sendline (.poll 2)))).portAnswer .lineStatus &&& platform.threMask = 0#8 ∧
    (answering [0x20#8] (running 3 (.sendline (.poll 2)))).portAnswer .lineStatus &&& platform.threMask ≠ 0#8 ∧
    Admitted (running 3 (.sendline (.poll 2))) (0x1000 + 2) := by unfold Admitted; decide

/-- "AB" sent, each of the four polls answered 0x60. -/
theorem test_witness_SendlineSendsItsBytesThenCrLf :
    Started { answering [0x60#8, 0x60#8, 0x60#8, 0x60#8] (running 3 .empty) with len := 2#32 } .sendline ∧
    (2#32 : Word).toNat = [0x41#8, 0x42#8].length ∧ TextAt (running 3 .empty) 0x1000 [0x41#8, 0x42#8] ∧
    [0x60#8, 0x60#8, 0x60#8, 0x60#8] = (List.range (2 + 2)).map (fun _ => 0x60#8) ++ ([] : List Byte) ∧
    (∀ j, j < 2 + 2 → (fun _ : Nat => 0x60#8) j &&& platform.threMask ≠ 0#8) := by unfold Started TextAt; decide

theorem test_witness_WaitTxHasNoBound :
    (running 3 (.sendline .pollLf)).state = .busy ∧ decode (running 3 (.sendline .pollLf)).cmd = .command .sendline ∧
    (answering [0xDF#8, 0x00#8] (running 3 (.sendline .pollLf))).uart.answers = [0xDF#8, 0x00#8] ++ [] ∧
    (∀ b ∈ [0xDF#8, 0x00#8], b &&& platform.threMask = 0#8) := by decide

/-- A THR write under the guard, and the guard itself. -/
theorem test_witness_ThrWritesFollowAReadyPoll :
    PollGuard { running 3 (.sendline .writeCr) with history := [.pr 0x3FD#16 0x60#8] } ∧
    (∃ t, exec .sendline { running 3 (.sendline .writeCr) with history := [.pr 0x3FD#16 0x60#8] } = .next t ∧
      t.history = .pw (uartPort platform .data) 0x0D#8 :: [.pr 0x3FD#16 0x60#8]) :=
  ⟨fun _ => ⟨0x60#8, rfl, by decide⟩, ⟨_, rfl, rfl⟩⟩

/-- The reference device, DLAB at 0 and at 1. -/
theorem test_witness_InitOnTheReferenceUart :
    Started { running 1 .empty with uart := { Uart.reset with mode := .ref } } .init ∧
    platform.ierOff = 0x00#8 ∧ platform.lcrDlab = 0x80#8 ∧ platform.lcr8n1 = 0x03#8 ∧ platform.fcrInit = 0x07#8 ∧
    platform.mcrNormal = 0x0B#8 ∧ platform.mcrLoop = 0x1B#8 ∧ platform.mcrFinal = 0x0B#8 ∧
    platform.divisor.bits = 0x0001#16 ∧ platform.baseClock = 115200 ∧ Uart.reset.dlab = false ∧
    { Uart.reset with lcr := 0x80#8 }.dlab = true := by unfold Started; decide

theorem test_witness_UartCommandsFrame :
    (∃ t, exec .init (running 1 .empty) = .next t) ∧ (∃ t, exec .txrdy (running 2 .empty) = .next t) ∧
    (∃ t, exec .sendline (running 3 (.sendline .writeLf)) = .next t ∧ t.state ≠ .fault) :=
  ⟨⟨_, rfl⟩, ⟨_, rfl⟩, ⟨_, rfl, by decide⟩⟩

theorem test_witness_ClearWritesCellByCell :
    1999 < cells platform ∧ (running 4 (.clear (.char 1999))).seq = .clear (.char 1999) ∧
    (running 4 (.clear (.attr 1999))).seq = .clear (.attr 1999) ∧ (running 4 .empty).seq = .empty := by decide

theorem test_witness_ClearBlanksTheScreen :
    Started (running 4 .empty) .clear ∧ 0 < cells (running 4 .empty).params := by unfold Started; decide

/-- The last position of the screen, a character and the terminator. -/
theorem test_witness_PrintMakesItsAccessesInOrder :
    Admitted (running 5 (.print (.read 0 79 24))) (0x1000 + 0) ∧
    (running 5 (.print (.read 0 79 24))).byteAt (0x1000 + 0) ≠ 0#8 ∧
    (running 5 (.print (.read 2 79 24))).byteAt (0x1000 + 2) = 0#8 ∧ 79 < platform.cols ∧ 24 < platform.rows ∧
    Admitted (running 5 (.print (.attr 1 79 24))) (0x1000 + (1 + 1)) := by unfold Admitted; decide

/-- "AB", and the empty text, from row 24; `k` = 0. -/
theorem test_witness_PrintMovesTheCursor :
    Started { running 5 .empty with cursorY := 24#8 } .print ∧
    TerminatedTextAt { running 5 .empty with cursorY := 24#8 } [0x41#8, 0x42#8] ∧
    0 < platform.cols ∧ { running 5 .empty with cursorY := 24#8 }.cursorY.toNat < platform.rows := by
  unfold Started TerminatedTextAt TextAt; decide

theorem test_witness_PrintWritesCharacterJAtItsCell :
    Started { running 5 .empty with ptr := 0x1002#32 } .print ∧
    TerminatedTextAt { running 5 .empty with ptr := 0x1002#32 } [] ∧ ([] : List Byte).length = platform.cols * 0 ∧
    0 < platform.cols := by
  unfold Started TerminatedTextAt TextAt; decide

theorem test_witness_PrintLeavesTheScreen :
    Started (running 5 .empty) .print ∧ TerminatedTextAt (running 5 .empty) [0x41#8, 0x42#8] ∧
    (running 5 .empty).cursorY.toNat < platform.rows ∧ [0x41#8, 0x42#8].length ≤ cells platform := by
  unfold Started TerminatedTextAt TextAt; decide

theorem test_witness_EmptyPrintAdvancesOneRow :
    Started { running 5 .empty with ptr := 0x1002#32, cursorY := 24#8 } .print ∧
    Admitted { running 5 .empty with ptr := 0x1002#32, cursorY := 24#8 } 0x1002 ∧
    { running 5 .empty with ptr := 0x1002#32, cursorY := 24#8 }.byteAt 0x1002 = 0#8 ∧
    (24#8).toNat < platform.rows := by
  unfold Started Admitted; decide

theorem test_witness_PrintatMakesItsAccessesInOrder :
    Admitted (running 6 (.printat (.read 1999 0))) (0x1000 + 0) ∧
    (running 6 (.printat (.read 1999 0))).byteAt (0x1000 + 0) ≠ 0#8 ∧
    (running 6 (.printat (.read 2000 2))).byteAt (0x1000 + 2) = 0#8 ∧ (79#8).toNat < platform.cols ∧
    (24#8).toNat < platform.rows ∧ 1999 = (24#8).toNat * platform.cols + (79#8).toNat ∧ 1999 < cells platform ∧ Admitted (running 6 (.printat (.char 1999 0 1#8))) (0x1000 + (0 + 1)) := by
  unfold Admitted; decide

/-- A text of two characters that ends on the last cell. -/
theorem test_witness_PrintatWritesOnlyCharacterBytes :
    Started (running 0x000C4E06 .empty) (.printat 78#8 24#8) ∧
    TerminatedTextAt (running 0x000C4E06 .empty) [0x41#8, 0x42#8] ∧
    (78#8).toNat < platform.cols ∧ (24#8).toNat < platform.rows ∧
    (24#8).toNat * platform.cols + (78#8).toNat + [0x41#8, 0x42#8].length ≤ cells platform := by
  unfold Started TerminatedTextAt TextAt; decide

theorem test_witness_PanicMakesItsAccessesInOrder :
    1999 < cells platform ∧ 1998 + 1 < cells platform ∧ 1999 + 1 = cells platform ∧
    platform.panicCol < platform.cols ∧ platform.panicRow < platform.rows ∧ (running 7 (.panicFill (.attr 1999))).seq = .panicFill (.attr 1999) ∧
    Admitted (running 7 (.panicFill (.attr 1999))) 0x1000 ∧
    (running 7 (.panicMsg (.read 1999 1))).byteAt (0x1000 + 1) ≠ 0#8 ∧
    (running 7 (.panicMsg (.read 2000 2))).byteAt (0x1000 + 2) = 0#8 ∧
    Admitted (running 7 (.panicMsg (.char 1999 1 1#8))) (0x1000 + (1 + 1)) := by unfold Admitted; decide

theorem test_witness_PanicFillsTheScreenAndReturns :
    Started (running 7 .empty) .panic ∧ TerminatedTextAt (running 7 .empty) [0x41#8, 0x42#8] ∧
    platform.panicCol < platform.cols ∧ platform.panicRow < platform.rows ∧
    panicCell platform + [0x41#8, 0x42#8].length ≤ cells platform := by unfold Started TerminatedTextAt TextAt; decide

theorem test_witness_ConsoleCommandsFrame :
    (∃ t, exec .clear (running 4 .empty) = .next t) ∧
    (∃ t, exec .print (running 5 (.print (.attr 0 79 24))) = .next t ∧ t.state ≠ .fault) ∧
    (∃ t, exec (.printat 0#8 0#8) (running 6 (.printat (.char 1999 1 1#8))) = .next t ∧ t.state ≠ .fault) ∧
    (∃ t, exec .panic (running 7 (.panicFill (.attr 1999))) = .next t ∧ t.state ≠ .fault) :=
  ⟨⟨_, rfl⟩, ⟨_, rfl, by decide⟩, ⟨_, rfl, by decide⟩, ⟨_, rfl, by decide⟩⟩

/-- A step that stores and a step that does not. -/
theorem test_witness_StepsStoreAtMostOneByte :
    (∃ t, exec .clear (running 4 (.clear (.attr 1999))) = .next t) ∧
    nextAccess .clear (running 4 (.clear (.attr 1999))) = some (.memWrite 0xB8F9F 0x00#8) ∧
    (∃ t, exec .txrdy (running 2 .empty) = .next t) ∧ storedAddr .txrdy (running 2 .empty) = none :=
  ⟨⟨_, rfl⟩, by decide, ⟨_, rfl⟩, by decide⟩

theorem test_witness_BootClearsThenInitializes :
    1999 < cells platform ∧ (running 8 (.bootClear (.attr 1999))).seq = .bootClear (.attr 1999) ∧
    (answering [0x55#8] (running 8 (.bootInit .rbr))).portAnswer .data = platform.testByte ∧
    (answering [0x00#8] (running 8 (.bootInit .rbr))).portAnswer .data ≠ platform.testByte ∧
    platform.bootMsg = 0x4F#8 :: [0x4B#8] ∧ 0x4F#8 ≠ 0#8 ∧
    { running 8 (.bootInit .mcrFinal) with params := { platform with bootMsg := [] } }.params.bootMsg = [] ∧
    (running 8 (.bootInit .mcrFinal)).cursorY.toNat < platform.rows ∧
    (∃ t, exec .init { running 8 (.bootInit .fcr) with seq := .init .fcr } = .next t ∧ t.seq = .init .mcrNormal) :=
  ⟨by decide, rfl, by decide, by decide, rfl, by decide, rfl, by decide, ⟨_, rfl, rfl⟩⟩

/-- The fill's last write, characters 9 and 10 of PANIC_MSG, BOOT_MSG = "OK" and BOOT_MSG empty. -/
theorem test_witness_BootPanicsThenPrints :
    (1998 + 1 < cells platform ∧ 1999 + 1 = cells platform ∧ platform.panicCol < platform.cols ∧
      platform.panicRow < platform.rows ∧ platform.panicMsg = 0x43#8 :: platform.panicMsg.tail) ∧
    (1009 + 1 < cells platform ∧ 9 + 1 < platform.panicMsg.length ∧ platform.panicMsg.getD (9 + 1) 0#8 ≠ 0#8 ∧
      (running 8 (.bootMsg (.char 1009 9 0x72#8))).seq = .bootMsg (.char 1009 9 0x72#8)) ∧
    (1010 < cells platform ∧ 10 + 1 = platform.panicMsg.length ∧
      (running 8 (.bootMsg (.char 1010 10 0x2E#8))).params.bootMsg = 0x4F#8 :: [0x4B#8]) ∧
    ({ running 8 (.bootMsg (.char 1010 10 0x2E#8)) with params := { platform with bootMsg := [] } }.params.bootMsg = [] ∧
      (running 8 (.bootMsg (.char 1010 10 0x2E#8))).cursorY.toNat < platform.rows) ∧
    79 < platform.cols ∧ 24 < platform.rows ∧
    0 + 1 < platform.bootMsg.length ∧ platform.bootMsg.getD (0 + 1) 0#8 ≠ 0#8 ∧ 1 + 1 = platform.bootMsg.length := by
  decide

/-- 42_boot R170 with an empty BOOT_MSG: after the last byte of PANIC_MSG only the row advance and CR LF are left. -/
theorem test_boot_of_nothing_advances_the_row :
    (nextOf (step { running 8 (.bootMsg (.char 1010 10 0x2E#8)) with params := { platform with bootMsg := [] } })).map
      (fun t => (t.seq, t.cursorX, t.cursorY, t.history)) =
      some (.bootSend .pollCr, 0#8, 1#8, [.mw 0xB87E4 0x2E#8]) := by decide

theorem test_witness_BootSendsThenIsDone :
    (running 8 (.bootSend (.poll 1))).seq = .bootSend (.poll 1) ∧
    (running 8 (.bootSend (.write 1 0x4B#8))).seq = .bootSend (.write 1 0x4B#8) ∧
    (running 8 (.bootSend .writeLf)).seq = .bootSend .writeLf := by decide

/-- A BOOT under way meets the invariant. -/
theorem test_witness_invariant : Inv (running 8 .empty) where
  params := by decide
  mem := by decide
  inMem := by decide
  cursorX := by decide
  cursorY := by decide
  column := fun h => absurd rfl h
  seqEmpty := fun h => absurd rfl h
  seqFits := trivial
  faultCode := by decide
  faultCmd := by decide
  doneBoot := by decide

/-- So does a CLEAR before its last write. -/
theorem test_witness_invariant_at_the_end : Inv (running 4 (.clear (.attr 1999))) where
  params := by decide
  mem := by decide
  inMem := by decide
  cursorX := by decide
  cursorY := by decide
  column := fun h => absurd rfl h
  seqEmpty := fun h => absurd rfl h
  seqFits := ⟨by decide, by show 1999 < cells platform; decide⟩
  faultCode := by decide
  faultCmd := by decide
  doneBoot := by decide

theorem test_witness_BootRaisesNoFault :
    Inv (running 8 .empty) ∧ (running 8 .empty).state = .busy ∧ (running 8 .empty).host = [] ∧
    decode (running 8 .empty).cmd = .command .boot := ⟨test_witness_invariant, by decide⟩

/-- BOOT_MSG = "OK", a readback of 0x54 and four ready polls. -/
theorem test_witness_BootAfterAFailedSelfTest :
    Started (answering [0x54#8, 0x60#8, 0x60#8, 0x60#8, 0x60#8] (running 8 .empty)) .boot ∧ paramsValid platform ∧
    platform.bootMsg.length ≤ cells platform ∧ platform.panicAttr ≠ platform.printAttr ∧
    [0x54#8, 0x60#8, 0x60#8, 0x60#8, 0x60#8] =
      0x54#8 :: ((List.range (platform.bootMsg.length + 2)).map (fun _ => 0x60#8) ++ ([] : List Byte)) ∧
    0x54#8 ≠ platform.testByte ∧
    (∀ j, j < platform.bootMsg.length + 2 → (fun _ : Nat => 0x60#8) j &&& platform.threMask ≠ 0#8) := by
  unfold Started; decide

theorem test_witness_BootAfterAPassedSelfTest :
    Started (answering [0x55#8, 0x60#8, 0x60#8, 0x60#8, 0x60#8] (running 8 .empty)) .boot ∧ paramsValid platform ∧
    (running 8 .empty).cursorY = 0#8 ∧ platform.bootMsg.length ≤ cells platform ∧
    [0x55#8, 0x60#8, 0x60#8, 0x60#8, 0x60#8] =
      platform.testByte :: ((List.range (platform.bootMsg.length + 2)).map (fun _ => 0x60#8) ++ ([] : List Byte)) := by
  unfold Started; decide

theorem test_witness_BootFrame :
    (∃ t, exec .boot (running 8 (.bootClear (.attr 1999))) = .next t ∧ t.state ≠ .fault) ∧
    (∀ p, (running 8 (.bootClear (.attr 1999))).seq ≠ .bootInit p) ∧
    (∀ p, (running 8 (.bootClear (.attr 1999))).seq ≠ .bootSend p) :=
  ⟨⟨_, rfl, by decide⟩, (by intro _ h; cases h), (by intro _ h; cases h)⟩

/-- A step of PRINT that moves CURSOR. -/
theorem test_witness_CursorWrittenOnlyByPrint :
    (∃ t, step (running 5 (.print (.attr 0 0 0))) = .next t ∧ t.cursorX ≠ (running 5 (.print (.attr 0 0 0))).cursorX) ∧
    (∃ t, step (running 8 (.bootPrint (.attr 0 0 0))) = .next t ∧ t.cursorX ≠ 0#8) :=
  ⟨⟨_, rfl, by decide⟩, ⟨_, rfl, by decide⟩⟩

theorem test_witness_FlagsHaveTheirWriters :
    (∃ t, step (running 1 (.init .mcrFinal)) = .next t ∧ t.initOk ≠ (running 1 (.init .mcrFinal)).initOk) ∧
    (∃ t, step (answering [0x20#8] (running 2 .empty)) = .next t ∧ t.txrdy = true) :=
  ⟨⟨_, rfl, by decide⟩, ⟨_, rfl, rfl⟩⟩

theorem test_witness_FaultCmdHoldsTheFaultingWord :
    (running 0x80000005 .empty).state ≠ .fault ∧
    (∃ t, step (running 0x80000005 .empty) = .next t ∧ t.state = .fault ∧
      t.faultCmd ≠ (running 0x80000005 .empty).faultCmd) ∧
    (∃ t, step { hosted .fault [.reset] with faultCmd := 6#32 } = .next t ∧ t.faultCmd ≠ 6#32) :=
  ⟨by decide, ⟨_, rfl, rfl, by decide⟩, ⟨_, rfl, by decide⟩⟩

theorem test_witness_EveryStepKeepsTheInvariant :
    Inv (running 8 .empty) ∧ ∃ t, step (running 8 .empty) = .next t := ⟨test_witness_invariant, ⟨_, rfl⟩⟩

/-- No move left, and each kind of move the host may make while BUSY at the head of its list. -/
theorem test_witness_BusyAlwaysHasANextStep :
    Inv (running 8 .empty) ∧ (running 8 .empty).state = .busy ∧
    (∀ m rest, (running 8 .empty).host = m :: rest → hostMayWhileBusy platform m) ∧
    hostMayWhileBusy platform .await ∧ hostMayWhileBusy platform .letRun ∧ hostMayWhileBusy platform .reset ∧
    hostMayWhileBusy platform (.read (platform.hostBase + 0x0C)) ∧
    hostMayWhileBusy platform (.read (platform.hostBase + 0x10)) ∧
    hostMayWhileBusy platform (.write (platform.hostBase + 0x0C) 1#32) :=
  ⟨test_witness_invariant, rfl, (by intro _ _ h; cases h), trivial, trivial, trivial, .inl rfl, .inr rfl,
    ⟨0x0C, rfl, rfl, by decide⟩⟩

theorem test_witness_WritesStayInTheFramebuffer :
    Inv (running 8 .empty) ∧ (running 8 .empty).state = .busy ∧ decode (running 8 .empty).cmd = .command .boot ∧
    nextAccess .boot (running 8 .empty) = some (.memWrite 0xB8000 0x00#8) :=
  ⟨test_witness_invariant, by decide⟩

/-- A step that ends a command: the last write of CLEAR. -/
theorem test_witness_CursorColumnIsZeroBetweenCommands :
    Inv (running 4 (.clear (.attr 1999))) ∧
    (∃ t, step (running 4 (.clear (.attr 1999))) = .next t ∧ t.state = .idle) :=
  ⟨test_witness_invariant_at_the_end, ⟨_, rfl, rfl⟩⟩

/-- DLL in INIT and in BOOT, a reference device with DLAB set. -/
theorem test_witness_InitProgramsAValidDivisor :
    (running 1 (.init .dll)).seq = .init .dll ∧ (running 8 (.bootInit .dll)).seq = .bootInit .dll ∧
    { Uart.reset with mode := .ref, lcr := 0x80#8 }.mode = .ref ∧
    { Uart.reset with mode := .refNoEcho, lcr := 0x80#8 }.dlab = true := by decide

/-- 40_uart R103, D10: a divisor of 0x0180 is DLL 0x80, DLM 0x01. -/
theorem test_divisor_bytes :
    divisorLow { platform with divisor := ⟨0x0180#16, by decide⟩ } = 0x80#8 ∧
    divisorHigh { platform with divisor := ⟨0x0180#16, by decide⟩ } = 0x01#8 := by decide

end Sys2Proof.Tests
end

section
/-! The reference parameters: what 00_scope R6's equations give on the document's literals, and the constraints they
meet. -/

namespace Sys2Proof.Machine

/-! ### R6's equations -/

/-- A valid divisor has a rate (40_uart R106). -/
theorem baudRate_divisor (p : Params) :
    baudRate p p.divisor.bits.toNat = some (p.baseClock / p.divisor.bits.toNat) :=
  if_neg (Nat.one_le_iff_ne_zero.mp (divisor_pos p))

theorem baudRate_referenceParams :
    baudRate referenceParams referenceParams.divisor.bits.toNat = some 115200 := by
  rw [baudRate_divisor]
  decide

@[simp] theorem cells_referenceParams : cells referenceParams = 2000 := rfl

@[simp] theorem fbBytes_referenceParams : fbBytes referenceParams = 4000 := by simp [fbBytes]

@[simp] theorem panicCell_referenceParams : panicCell referenceParams = 1000 := rfl

/-! ### The constraints -/

/-- The UART's ports and FB have addresses, and BOOT_MSG holds no terminator (00_scope R6). -/
theorem referenceParams_statedConstraints : statedConstraints referenceParams := by
  refine ⟨?ports, ?framebuffer, ?bootMsg⟩
  case ports => decide
  case framebuffer => rw [fbBytes_referenceParams]; decide
  case bootMsg => decide

/-- The panic position is a cell, and PANIC_MSG from there ends on the screen (42_boot R174). -/
theorem referenceParams_layoutFits : layoutFits referenceParams := by
  refine ⟨?cols, ?rows, ?panicCol, ?panicRow, ?noTerminator, ?messageFits⟩
  case messageFits => rw [panicCell_referenceParams, cells_referenceParams]; decide
  all_goals decide

theorem referenceParams_valid : paramsValid referenceParams :=
  ⟨referenceParams_statedConstraints, referenceParams_layoutFits⟩

/-- Settles O50: `State.reset` holds `referenceParams`, whose fields are the literals; what R6 derives from them, and the
constraints, are the lemmas above. -/
theorem literalsAreTheDocuments : Obligations.LiteralsAreTheDocuments := by
  have divisorBytes : divisorLow referenceParams = 0x01#8 ∧ divisorHigh referenceParams = 0x00#8 := by decide
  obtain ⟨low, high⟩ := divisorBytes
  exact ⟨rfl, rfl, cells_referenceParams, fbBytes_referenceParams, rfl, rfl, rfl, rfl, panicCell_referenceParams, rfl, rfl,
    low, high, baudRate_referenceParams, rfl, rfl, referenceParams_valid⟩

end Sys2Proof.Machine
end

section
/-! What a step of the block and its host can be, said once (10_state R22, R27; 70_reset R225): the inversion lemma that
the whole-machine statements split on. -/

namespace Sys2Proof.Machine

/-- Everything a step that answers a next state can be. `h` is what is left of the host's script. -/
inductive Stepping (s : State) : State → Prop
  /-- The ENGINE's step on the command in CMD. -/
  | command {t : State} (h : List HostMove) (i : Instr) (busy : s.state = .busy) (word : decode s.cmd = .command i)
      (run : exec i (s.setHost h) = .next t) : Stepping s t
  /-- The ENGINE's step on a word that Decode maps to Illegal. -/
  | illegal (h : List HostMove) (why : Illegal) (busy : s.state = .busy) (word : decode s.cmd = .illegal why) :
      Stepping s ((s.setHost h).enterFault .illegalCmd)
  /-- The host's write of CMD. -/
  | start (h : List HostMove) (w : Word) (idle : s.state = .idle) :
      Stepping s { s with host := h, cmd := w, state := .busy }
  /-- The host's write of PTR or LEN. -/
  | operands (h : List HostMove) (ptr len : Word) : Stepping s { s with host := h, ptr := ptr, len := len }
  /-- A byte of text supplied. -/
  | supplied (h : List HostMove) (a : Nat) (b : Byte) (text : isTextMemory s.params a = true) :
      Stepping s ((s.setHost h).setMem (memWrite s.mem a b))
  /-- A read, a write without effect, or a wait that is over. -/
  | seen (h : List HostMove) (vs : List Word) : Stepping s { s with host := h, seen := vs }
  | reset (h : List HostMove) (asserted : s.host = .reset :: h) : Stepping s (s.setHost h).resetEngine

variable {s t : State}

theorem stepping_engineBusy (h : List HostMove) (busy : s.state = .busy) (run : engineBusy (s.setHost h) = .next t) :
    Stepping s t := by
  unfold engineBusy at run
  split at run
  case h_1 i hd => exact .command h i busy hd run
  case h_2 why hd => cases run; exact .illegal h why busy hd

theorem stepping_engineStep (run : engineStep s = .next t) : Stepping s t := by
  cases hs : s.state <;> simp only [engineStep, hs] at run
  case busy => exact stepping_engineBusy s.host hs run
  all_goals cases run

theorem stepping_hostOperandWrite {h : List HostMove} {ptr len : Word}
    (run : hostOperandWrite (s.setHost h) { s with host := h, ptr := ptr, len := len } = .next t) : Stepping s t := by
  unfold hostOperandWrite at run
  split at run <;> cases run
  exact .operands h ptr len

theorem stepping_hostWriteCmd {h : List HostMove} {w : Word} (run : hostWriteCmd (s.setHost h) w = .next t) :
    Stepping s t := by
  unfold hostWriteCmd at run
  split at run <;> cases run
  rename_i idle
  exact .start h w idle

theorem stepping_hostWrite {h : List HostMove} {addr : Nat} {v : Word}
    (run : hostWrite (s.setHost h) addr v = .next t) : Stepping s t := by
  unfold hostWrite at run
  split at run
  case h_1 r _ =>
    cases r
    case cmd => exact stepping_hostWriteCmd run
    case ptr => exact stepping_hostOperandWrite (ptr := v) (len := s.len) run
    case len => exact stepping_hostOperandWrite (ptr := s.ptr) (len := v) run
    all_goals cases run; exact .seen h s.seen
  all_goals cases run

theorem stepping_hostRead {h : List HostMove} {addr : Nat} (run : hostRead (s.setHost h) addr = .next t) :
    Stepping s t := by
  unfold hostRead at run
  split at run
  case h_1 r _ =>
    unfold hostReadReg at run
    split at run <;> cases run
    exact .seen h _
  all_goals cases run

theorem stepping_hostSupply {h : List HostMove} {a : Nat} {b : Byte}
    (run : hostSupply (s.setHost h) a b = .next t) : Stepping s t := by
  unfold hostSupply at run
  split at run
  · cases run
  · split at run <;> cases run
    rename_i text
    exact .supplied h a b text

/-- A step that answers a next state is one of these (20_memory R60, 70_reset R225). -/
theorem stepping_of_step (run : step s = .next t) : Stepping s t := by
  unfold step systemStep at run
  split at run
  case h_1 => exact stepping_engineStep run
  case h_2 m rest hh =>
    cases m with
    | write addr v => exact stepping_hostWrite run
    | read addr => exact stepping_hostRead run
    | supply a b => exact stepping_hostSupply run
    | await =>
      simp only [hostMove, hostAwait] at run
      split at run
      · rename_i busy; exact stepping_engineBusy s.host busy run
      · cases run; exact .seen rest s.seen
    | letRun =>
      simp only [hostMove, hostLetRun] at run
      split at run
      · rename_i busy; exact stepping_engineBusy rest busy run
      · cases run; exact .seen rest s.seen
    | reset => cases run; exact .reset rest hh

end Sys2Proof.Machine
end

section
/-! A step of a command as a step of the body its SEQ stands in: one inversion lemma for each command, so that later
proofs split on the bodies and do not unfold `exec`. -/

namespace Sys2Proof.Machine

variable {s t : State}

theorem init_next (h : exec .init s = .next t) :
    ∃ p, (s.seq = .empty ∧ p = .ier ∨ s.seq = .init p) ∧ runAccess initAccess initAfter initLand p s = .next t := by
  simp only [exec, execInit] at h
  split at h
  case h_1 hq => exact ⟨_, .inl ⟨hq, rfl⟩, h⟩
  case h_2 p hq => exact ⟨p, .inr hq, h⟩
  case h_3 => cases h

theorem txrdy_next (h : exec .txrdy s = .next t) :
    s.seq = .empty ∧ runAccess txrdyAccess txrdyAfter txrdyLand () s = .next t := by
  simp only [exec, execTxrdy] at h
  split at h
  case h_1 hq => exact ⟨hq, h⟩
  case h_2 => cases h

/-- SendBody's loop goes on to a poll (40_uart R105). -/
theorem sendLoop_poll (n i : Nat) (s : State) : ∃ p, sendLoop n i s = (s, .goto p) ∧ p.noRead := by
  unfold sendLoop
  split <;> exact ⟨_, rfl, trivial⟩

theorem sendline_next (h : exec .sendline s = .next t) :
    ∃ p, (s.seq = .empty ∨ s.seq = .sendline p) ∧
      runAccess (sendAccess (ptrText s)) (sendAfter (ptrText s) (lenCount s)) sendlineLand p s = .next t := by
  simp only [exec, execSendline] at h
  split at h
  case h_1 hq =>
    obtain ⟨p, hp, -⟩ := sendLoop_poll (lenCount s) 0 s
    rw [hp] at h
    exact ⟨p, .inl hq, h⟩
  case h_2 p hq => exact ⟨p, .inr hq, h⟩
  case h_3 => cases h

theorem clear_next (h : exec .clear s = .next t) :
    ∃ p, (s.seq = .empty ∧ p = .char 0 ∨ s.seq = .clear p) ∧
      runAccess (fillAccess 0x00#8 0x00#8) fillAfter clearLand p s = .next t := by
  simp only [exec, execClear] at h
  split at h
  case h_1 hq => exact ⟨_, .inl ⟨hq, rfl⟩, h⟩
  case h_2 p hq => exact ⟨p, .inr hq, h⟩
  case h_3 => cases h

theorem print_next (h : exec .print s = .next t) :
    (∃ p, (s.seq = .empty ∧ p = .read 0 0 s.cursorY.toNat ∨ s.seq = .print p) ∧
      runAccess (printAccess (ptrText s)) (printAfter (ptrText s)) printLand p s = .next t) ∨
    (s.seq = .empty ∧ ∃ c, t = s.enterFault c) := by
  simp only [exec, execPrint] at h
  split at h
  case h_1 hq =>
    rcases printStart_mem s with ⟨hp, _⟩ | ⟨c, hp, _⟩ <;> rw [hp] at h
    · exact .inl ⟨_, .inl ⟨hq, rfl⟩, h⟩
    · cases h; exact .inr ⟨hq, c, rfl⟩
  case h_2 p hq => exact .inl ⟨p, .inr hq, h⟩
  case h_3 => cases h

theorem printat_next {col row : Byte} (h : exec (.printat col row) s = .next t) :
    (∃ p, (s.seq = .empty ∧ p = .read (cellIndex s.params col.toNat row.toNat) 0 ∨ s.seq = .printat p) ∧
      runAccess (printAtAccess (ptrText s)) (printAtAfter (ptrText s)) printatLand p s = .next t) ∨
    (s.seq = .empty ∧ ∃ c, t = s.enterFault c) := by
  simp only [exec, execPrintat] at h
  split at h
  case h_1 hq =>
    rcases printAtStart_mem col.toNat row.toNat s with ⟨hp, _⟩ | ⟨c, hp⟩ <;> rw [hp] at h
    · exact .inl ⟨_, .inl ⟨hq, rfl⟩, h⟩
    · cases h; exact .inr ⟨hq, c, rfl⟩
  case h_2 p hq => exact .inl ⟨p, .inr hq, h⟩
  case h_3 => cases h

theorem panic_next (h : exec .panic s = .next t) :
    (∃ p, (s.seq = .empty ∧ p = .char 0 ∨ s.seq = .panicFill p) ∧
      runAccess (fillAccess s.params.panicFillChar s.params.panicAttr) fillAfter panicFillLand p s = .next t) ∨
    ∃ p, s.seq = .panicMsg p ∧
      runAccess (printAtAccess (ptrText s)) (printAtAfter (ptrText s)) panicMsgLand p s = .next t := by
  simp only [exec, execPanic] at h
  split at h
  case h_1 hq => exact .inl ⟨_, .inl ⟨hq, rfl⟩, h⟩
  case h_2 p hq => exact .inl ⟨p, .inr hq, h⟩
  case h_3 p hq => exact .inr ⟨p, hq, h⟩
  case h_4 => cases h

/-- A step of BOOT, by the phase its SEQ stands in (42_boot R170). -/
inductive BootStep (s t : State) : Prop
  | clear (p : FillPt) (hq : s.seq = .empty ∧ p = .char 0 ∨ s.seq = .bootClear p)
      (run : runAccess (fillAccess 0x00#8 0x00#8) fillAfter bootClearLand p s = .next t)
  | init (p : InitPt) (hq : s.seq = .bootInit p)
      (run : runAccess initAccess initAfter bootInitLand p s = .next t)
  | fill (p : FillPt) (hq : s.seq = .bootFill p)
      (run : runAccess (fillAccess s.params.panicFillChar s.params.panicAttr) fillAfter bootFillLand p s = .next t)
  | msg (p : PrintAtPt) (hq : s.seq = .bootMsg p)
      (run : runAccess (printAtAccess (panicText s)) (printAtAfter (panicText s)) bootMsgLand p s = .next t)
  | print (p : PrintPt) (hq : s.seq = .bootPrint p)
      (run : runAccess (printAccess (bootText s)) (printAfter (bootText s)) bootPrintLand p s = .next t)
  | send (p : SendPt) (hq : s.seq = .bootSend p)
      (run : runAccess (sendAccess (bootText s)) (sendAfter (bootText s) s.params.bootMsg.length) bootSendLand p s =
        .next t)

theorem boot_next (h : exec .boot s = .next t) : BootStep s t := by
  simp only [exec, execBoot] at h
  split at h
  case h_1 hq => exact .clear _ (.inl ⟨hq, rfl⟩) h
  case h_2 p hq => exact .clear p (.inr hq) h
  case h_3 p hq => exact .init p hq h
  case h_4 p hq => exact .fill p hq h
  case h_5 p hq => exact .msg p hq h
  case h_6 p hq => exact .print p hq h
  case h_7 p hq => exact .send p hq h
  case h_8 => cases h

/-! ### Where a body goes on to -/

/-- SendBody goes on to an access, which a Rom text never makes a read, or ends, or faults (40_uart R105). -/
theorem sendAfter_cases (src : TextSrc) (n : Nat) (p : SendPt) (v : Byte) (s : State) :
    (∃ q, sendAfter src n p v s = (s, .goto q) ∧ ∀ str, src = .rom str → q.noRead) ∨
      sendAfter src n p v s = (s, .ended ()) ∨ ∃ c, sendAfter src n p v s = (s, .raised c) := by
  cases p with
  | poll i =>
    cases hv : threSet s.params v with
    | false => exact .inl ⟨_, sendAfter_poll_wait hv, fun _ _ => trivial⟩
    | true =>
      rw [sendAfter_poll_ready hv]
      cases src with
      | rom str => exact .inl ⟨_, sendText_rom str i s, fun _ _ => trivial⟩
      | mem a =>
        rcases hr : readFault s.params (a + i) with _ | c
        · exact .inl ⟨_, sendText_bus hr, by simp⟩
        · exact .inr (.inr ⟨c, sendText_raised hr⟩)
  | read i => exact .inl ⟨_, rfl, fun _ _ => trivial⟩
  | write i b =>
    obtain ⟨q, hq, hn⟩ := sendLoop_poll n (i + 1) s
    exact .inl ⟨q, hq, fun _ _ => hn⟩
  | pollCr =>
    cases hv : threSet s.params v with
    | false => exact .inl ⟨_, sendAfter_pollCr_wait hv, fun _ _ => trivial⟩
    | true => exact .inl ⟨_, sendAfter_pollCr_ready hv, fun _ _ => trivial⟩
  | writeCr => exact .inl ⟨_, rfl, fun _ _ => trivial⟩
  | pollLf =>
    cases hv : threSet s.params v with
    | false => exact .inl ⟨_, sendAfter_pollLf_wait hv, fun _ _ => trivial⟩
    | true => exact .inl ⟨_, sendAfter_pollLf_ready hv, fun _ _ => trivial⟩
  | writeLf => exact .inr (.inl rfl)

/-- FillBody goes on to a cell of the screen, or ends (41_console R133). -/
theorem fillAfter_cases (p : FillPt) (v : Byte) (s : State) :
    (∃ q, fillAfter p v s = (s, .goto q) ∧ (p.onScreen s.params → q.onScreen s.params)) ∨
      fillAfter p v s = (s, .ended ()) := by
  cases p with
  | char c => exact .inl ⟨_, fillAfter_char c v s, id⟩
  | attr c =>
    rcases Nat.lt_or_ge (c + 1) (cells s.params) with hc | hc
    · exact .inl ⟨_, fillAfter_attr_lt hc v, fun _ => hc⟩
    · exact .inr (fillAfter_attr_last hc v)

/-- PrintAtBody goes on to a cell of the screen, or ends, or faults (41_console R137). -/
theorem printAtByte_cases (c i : Nat) (b : Byte) (s : State) :
    (∃ q, printAtByte c i b s = (s, .goto q) ∧ q.onScreen s.params) ∨ printAtByte c i b s = (s, .ended ()) ∨
      ∃ f, printAtByte c i b s = (s, .raised f) := by
  unfold printAtByte
  split
  · exact .inr (.inl rfl)
  · split
    · exact .inr (.inr ⟨_, rfl⟩)
    · rename_i hc; exact .inl ⟨_, rfl, Nat.not_le.1 hc⟩

theorem printAtText_cases (src : TextSrc) (c i : Nat) (s : State) :
    (∃ q, printAtText src c i s = (s, .goto q) ∧ q.onScreen s.params) ∨ printAtText src c i s = (s, .ended ()) ∨
      ∃ f, printAtText src c i s = (s, .raised f) := by
  unfold printAtText
  split
  · exact .inr (.inr ⟨_, rfl⟩)
  · exact .inl ⟨_, rfl, trivial⟩
  · exact printAtByte_cases c i _ s

theorem printAtAfter_cases (src : TextSrc) (p : PrintAtPt) (v : Byte) (s : State) :
    (∃ q, printAtAfter src p v s = (s, .goto q) ∧ q.onScreen s.params) ∨ printAtAfter src p v s = (s, .ended ()) ∨
      ∃ f, printAtAfter src p v s = (s, .raised f) := by
  cases p with
  | read c i => exact printAtByte_cases c i v s
  | char c i b => exact printAtText_cases src (c + 1) (i + 1) s

/-- The text of PANIC_MSG, from its cell on, goes on to its next character, or ends: it raises no fault (42_boot
R174). -/
theorem printAtByte_panicMsg {s : State} (hl : layoutFits s.params) {i : Nat} (hi : i ≤ s.params.panicMsg.length) :
    (∃ q, printAtByte (panicCell s.params + i) i (s.params.panicMsg.getD i 0x00#8) s = (s, .goto q) ∧
        q.inPanicMsg s.params) ∨
      printAtByte (panicCell s.params + i) i (s.params.panicMsg.getD i 0x00#8) s = (s, .ended ()) := by
  obtain ⟨_, _, _, _, noTerminator, fits⟩ := hl
  rcases Nat.lt_or_eq_of_le hi with hlt | rfl
  · have hb : s.params.panicMsg.getD i 0x00#8 ≠ 0x00#8 := by
      rw [List.getD_eq_getElem?_getD, List.getElem?_eq_getElem hlt, Option.getD_some]
      exact fun h0 => noTerminator (h0 ▸ List.getElem_mem hlt)
    exact .inl ⟨_, printAtByte_char hb (by omega) i, rfl, hlt⟩
  · rw [List.getD_eq_getElem?_getD, List.getElem?_eq_none (Nat.le_refl _), Option.getD_none]
    exact .inr (printAtByte_terminator _ _ s)

/-- The row after a row of the screen is one of the screen (41_console R144). -/
theorem wrapRow_lt {p : Params} {row : Nat} (h : row < p.rows) : wrapRow p (row + 1) < p.rows := by
  rw [wrapRow_eq_mod h]
  exact Nat.mod_lt _ (Nat.zero_lt_of_lt h)

/-- What PrintBody comes to from a state `w`: the next access on the screen, which a Rom text never makes a read; the end
at column 0 of a row of the screen; or a fault, which a Rom text never raises. -/
inductive PrintGoes (src : TextSrc) (w : State) : State × Flow PrintPt Unit → Prop
  | goto (q : PrintPt) (onScreen : q.onScreen w.params) (noRead : ∀ str, src = .rom str → q.noRead) :
      PrintGoes src w (w, .goto q)
  | ended (y : Nat) (hy : y < w.params.rows) : PrintGoes src w (w.setCursor 0 y, .ended ())
  | raised (c : FaultCode) (inMem : ∃ a, src = .mem a) : PrintGoes src w (w, .raised c)

theorem printGoes_byte (src : TextSrc) (i : Nat) {col row : Nat} (b : Byte) {s : State} (hc : col < s.params.cols)
    (hr : row < s.params.rows) : PrintGoes src s (printByte i col row b s) := by
  by_cases hb : b = 0x00#8
  · subst hb
    rw [printByte_terminator]
    exact .ended _ (wrapRow_lt hr)
  · rw [printByte_char hb]
    exact .goto _ ⟨hc, hr⟩ fun _ _ => trivial

theorem printGoes_text (src : TextSrc) (i : Nat) {col row : Nat} {s : State} (hc : col < s.params.cols)
    (hr : row < s.params.rows) : PrintGoes src s (printText src i col row s) := by
  cases src with
  | rom str => exact printGoes_byte _ i _ hc hr
  | mem a =>
    rcases h : readFault s.params (a + i) with _ | c
    · rw [printText_bus h]
      exact .goto _ ⟨hc, hr⟩ (by simp)
    · rw [printText_raised h]
      exact .raised c ⟨a, rfl⟩

/-- PrintBody goes on from the state its access left, or from that state with CURSOR moved on over the screen. -/
theorem printGoes_after (src : TextSrc) {p : PrintPt} (v : Byte) {s : State} (hp : p.onScreen s.params) :
    PrintGoes src s (printAfter src p v s) ∨
      ∃ x y, p.noRead ∧ x < s.params.cols ∧ y < s.params.rows ∧
        PrintGoes src (s.setCursor x y) (printAfter src p v s) := by
  cases p with
  | read i col row => exact .inl (printGoes_byte src i v hp.1 hp.2)
  | char i col row b => exact .inl (.goto _ hp fun _ _ => trivial)
  | attr i col row =>
    have hxy := advance_lt hp.1 hp.2
    exact .inr ⟨_, _, trivial, hxy.1, hxy.2, printGoes_text src (i + 1) hxy.1 hxy.2⟩

/-- BOOT's Print phase starts with its first character; an empty BOOT_MSG goes on to SendBody at once, the row advanced
(42_boot R170, 41_console R140). -/
theorem bootPrintLand_start (s : State) :
    (∃ b, bootPrintLand (printStart (bootText s) s) = s.setSeq (.bootPrint (.char 0 0 s.cursorY.toNat b))) ∨
      (s.params.bootMsg.getD 0 0x00#8 = 0x00#8 ∧ ∃ p : SendPt, p.noRead ∧
        bootPrintLand (printStart (bootText s) s) =
          (s.setCursor 0 (wrapRow s.params (s.cursorY.toNat + 1))).setSeq (.bootSend p)) := by
  unfold printStart bootText
  rw [printText_rom]
  by_cases hb : s.params.bootMsg.getD 0 0x00#8 = 0x00#8
  · rw [hb, printByte_terminator]
    obtain ⟨p, hp, hn⟩ := sendLoop_poll s.params.bootMsg.length 0
      (s.setCursor 0 (wrapRow s.params (s.cursorY.toNat + 1)))
    refine .inr ⟨rfl, p, hn, ?_⟩
    simp only [bootPrintLand, land_ended, State.setCursor_params, hp, bootSendLand, land_goto]
  · rw [printByte_char hb]
    exact .inl ⟨_, rfl⟩

end Sys2Proof.Machine
end

section
/-! The invariant of the block, one rule for each update a step is made of: an access, the end of a body, fault entry, a
move of the host. Then every step keeps it (10_state R21, R24, R26; 41_console R143, R144; 60_exceptions R182). -/

namespace Sys2Proof.Machine

/-! ### The invariant under the updates -/

/-- Addresses of FB are addresses of MEM (00_scope R6). -/
theorem lt_of_inFb {p : Params} (hp : paramsValid p) {a : Nat} (h : inFb p a = true) : a < 2 ^ p.addrWidth := by
  obtain ⟨⟨_, hfb, _⟩, _⟩ := hp
  have hpos : 0 < 2 ^ p.addrWidth := Nat.two_pow_pos _
  obtain ⟨hlo, hhi⟩ := (inFb_iff p a).1 h
  unfold fbBytes at hfb
  omega

/-- Text-source memory lies in MEM (10_state R32). -/
theorem lt_of_isTextMemory {p : Params} {a : Nat} (h : isTextMemory p a = true) : a < 2 ^ p.addrWidth := by
  simp only [isTextMemory, Bool.and_eq_true, decide_eq_true_eq] at h
  exact h.1.1

/-- What SEQ's place says of the command in CMD. -/
theorem Inv.fits {s : State} (h : Inv s) {q : Seq} (hq : s.seq = q) : Machine.seqFits (s.setSeq q) := by
  subst hq
  exact h.seqFits

theorem Inv.cols_pos {s : State} (h : Inv s) : 0 < s.params.cols := Nat.zero_lt_of_lt h.cursorX

/-- The screen has a first cell (log 17). -/
theorem Inv.cells_pos {s : State} (h : Inv s) : 0 < cells s.params :=
  Machine.cells_pos h.cols_pos (Nat.zero_lt_of_lt h.cursorY)

/-- A byte written inside MEM. -/
theorem Inv.setMem {s : State} (h : Inv s) {a : Nat} (v : Byte) (ha : a < 2 ^ s.params.addrWidth) :
    Inv (s.setMem (memWrite s.mem a v)) :=
  { h with
    mem := memWrite_wf h.mem a v
    inMem := fun c hc => by
      rcases mem_memWrite hc with rfl | hc
      · exact ha
      · exact h.inMem c hc }

/-- An access that is performed keeps the invariant. -/
theorem Inv.perform {s u : State} {a : Access} {v : Byte} (h : Inv s) (hp : s.perform a = .got v u) : Inv u := by
  rcases perform_cases s a with ⟨_, _, e⟩ | ⟨_, _, _, e⟩ | ⟨_, _, _, e⟩ | ⟨_, _, _, _, e⟩ | ⟨x, w, _, hx, e⟩ |
    ⟨_, _, _, _, e⟩ <;> rw [e] at hp <;> cases hp
  · exact { h with }
  · exact { h with }
  · exact { h with }
  · exact { h.setMem w (lt_of_inFb h.params hx) with }

/-- A byte keeps a position below its bound. -/
theorem toNat_ofNat_lt {x n : Nat} (h : x < n) : (BitVec.ofNat 8 x).toNat < n := by
  rw [BitVec.toNat_ofNat]
  exact Nat.lt_of_le_of_lt (Nat.mod_le _ _) h

/-- The invariant inside a step of command `i`. -/
structure Running (i : Instr) (s : State) : Prop where
  inv : Inv s
  busy : s.state = .busy
  word : decode s.cmd = .command i

namespace Running
variable {i : Instr} {s : State}

/-- Outside PrintBody the column is 0 while a command runs (41_console R143). -/
theorem cursorX_eq_zero (h : Running i s) (hq : ¬ inPrint s.seq) : s.cursorX = 0#8 := by
  refine Classical.byContradiction fun hx => ?_
  rcases h.inv.column hx with ⟨hf, _⟩ | hp
  · rw [h.busy] at hf; cases hf
  · exact hq hp

theorem perform (h : Running i s) {u : State} {a : Access} {v : Byte} (hp : s.perform a = .got v u) : Running i u := by
  have hi := h.inv.perform hp
  rw [perform_got hp] at hi ⊢
  exact ⟨hi, h.busy, h.word⟩

/-- SEQ moves on to an access of the command. -/
theorem setSeq (h : Running i s) (q : Seq) (hq : seqFits (s.setSeq q)) (hx : s.cursorX = 0#8 ∨ inPrint q) :
    Inv (s.setSeq q) :=
  { h.inv with
    column := fun hne => .inr (hx.resolve_left hne)
    seqEmpty := fun hb => absurd h.busy hb
    seqFits := hq }

/-- CURSOR moves over the screen inside PrintBody, and to column 0 at its end. -/
theorem setCursor (h : Running i s) {x y : Nat} (hx : x < s.params.cols) (hy : y < s.params.rows)
    (hq : x = 0 ∨ inPrint s.seq) : Running i (s.setCursor x y) where
  inv := { h.inv with
    cursorX := toNat_ofNat_lt hx
    cursorY := toNat_ofNat_lt hy
    column := fun hne => .inr (hq.resolve_left fun h0 => hne (by simp [h0])) }
  busy := h.busy
  word := h.word

theorem setInitOk (h : Running i s) (b : Bool) : Running i (s.setInitOk b) := ⟨{ h.inv with }, h.busy, h.word⟩

theorem setTxrdy (h : Running i s) (b : Bool) : Running i (s.setTxrdy b) := ⟨{ h.inv with }, h.busy, h.word⟩

/-- No fault is recorded while a command runs. -/
theorem faultCode_eq_none (h : Running i s) : s.faultCode = none := by
  have := h.inv.faultCode
  simpa [h.busy] using this

theorem faultCmd_eq_zero (h : Running i s) : s.faultCmd = 0#32 := by
  rw [h.inv.faultCmd, h.busy]; rfl

theorem finish (h : Running i s) (hx : s.cursorX = 0#8) : Inv s.finish :=
  { h.inv with
    column := fun hne => absurd hx hne
    seqEmpty := fun _ => rfl
    seqFits := trivial
    faultCode := by simp [h.faultCode_eq_none]
    faultCmd := by simp [h.faultCmd_eq_zero]
    doneBoot := by simp }

theorem finishDone (h : Running .boot s) (hx : s.cursorX = 0#8) : Inv s.finishDone :=
  { h.inv with
    column := fun hne => absurd hx hne
    seqEmpty := fun _ => rfl
    seqFits := trivial
    faultCode := by simp [h.faultCode_eq_none]
    faultCmd := by simp [h.faultCmd_eq_zero]
    doneBoot := fun _ => h.word }

end Running

/-- Fault entry, from a column that only PRINT may leave nonzero. -/
theorem Inv.enterFault {s : State} (h : Inv s) (hx : s.cursorX = 0#8 ∨ decode s.cmd = .command .print) (c : FaultCode) :
    Inv (s.enterFault c) :=
  { h with
    column := fun hne => .inl ⟨rfl, hx.resolve_left hne⟩
    seqEmpty := fun _ => rfl
    seqFits := trivial
    faultCode := by simp
    faultCmd := by simp
    doneBoot := by simp }

/-! ### The invariant through a step of each body -/

section Body
variable {P R : Type} {access : P → State → Option Access} {after : P → Byte → State → State × Flow P R}
  {landing : State × Flow P R → State} {p : P} {i : Instr} {s t : State}

/-- A step of a body keeps the invariant where its landing does, and where a read that faults leaves no column but
PRINT's. -/
theorem Running.runAccess (h : Running i s)
    (hf : ∀ a, access p s = some (.memRead a) → s.cursorX = 0#8 ∨ decode s.cmd = .command .print)
    (hl : ∀ v u, Running i u → u.seq = s.seq → u.params = s.params → Inv (landing (after p v u)))
    (run : runAccess access after landing p s = .next t) : Inv t := by
  obtain ⟨x, hx, ⟨v, u, hp, rfl⟩ | ⟨c, hp, rfl⟩⟩ := runAccess_next run
  · exact hl v u (h.perform hp) (by rw [perform_got hp]) (by rw [perform_got hp])
  · rcases perform_cases s x with ⟨_, _, e⟩ | ⟨_, _, _, e⟩ | ⟨_, _, _, e⟩ | ⟨a, _, rfl, _, e⟩ | ⟨_, _, _, _, e⟩ |
      ⟨_, _, _, _, e⟩ <;> rw [e] at hp <;> cases hp
    exact h.inv.enterFault (hf a hx) c

/-- Outside PrintBody the column is 0 throughout the step. -/
theorem Running.runAccess_outsidePrint (h : Running i s) (hq : ¬ inPrint s.seq)
    (hl : ∀ v u, Running i u → u.cursorX = 0#8 → u.params = s.params → Inv (landing (after p v u)))
    (run : Machine.runAccess access after landing p s = .next t) : Inv t :=
  h.runAccess (fun _ _ => .inl (h.cursorX_eq_zero hq))
    (fun v u hu hseq => hl v u hu (hu.cursorX_eq_zero (hseq ▸ hq))) run

end Body

variable {i : Instr} {s t : State}

namespace Running

/-- A step of FillBody keeps the invariant where the computation that follows the fill does. -/
theorem inv_fill (h : Running i s) {place : FillPt → Seq} {follow : Unit → State → State} {ch attr : Byte} {p : FillPt}
    (outside : ∀ q, ¬ inPrint (place q))
    (fits : ∀ w, Running i w → ∀ q, seqFits (w.setSeq (place q)) ↔ q.onScreen w.params)
    (hf : ∀ u, Running i u → u.cursorX = 0#8 → Inv (follow () u))
    (hq : s.seq = .empty ∧ p = .char 0 ∨ s.seq = place p)
    (run : Machine.runAccess (fillAccess ch attr) fillAfter (land place follow) p s = .next t) : Inv t := by
  have hp : p.onScreen s.params := by
    rcases hq with ⟨_, rfl⟩ | e
    · exact h.inv.cells_pos
    · exact (fits s h p).1 (h.inv.fits e)
  have hs : ¬ inPrint s.seq := by
    rcases hq with ⟨e, _⟩ | e <;> rw [e]
    · exact id
    · exact outside p
  refine h.runAccess_outsidePrint hs (fun v u hu hx hpar => ?_) run
  rcases fillAfter_cases p v u with ⟨q, e, onScreen⟩ | e <;> rw [e]
  · exact hu.setSeq (place q) ((fits u hu q).2 (onScreen (hpar ▸ hp))) (.inl hx)
  · exact hf u hu hx

/-- Where PrintAtBody ends its command, its landing keeps the invariant. -/
theorem inv_printAtLand (h : Running i s) (hx : s.cursorX = 0#8) {place : PrintAtPt → Seq}
    (fits : ∀ q : PrintAtPt, q.onScreen s.params → seqFits (s.setSeq (place q))) (src : TextSrc) (p : PrintAtPt)
    (v : Byte) : Inv (land place (fun (_ : Unit) w => w.finish) (printAtAfter src p v s)) := by
  rcases printAtAfter_cases src p v s with ⟨q, e, onScreen⟩ | e | ⟨c, e⟩ <;> rw [e]
  · exact h.setSeq (place q) (fits q onScreen) (.inl hx)
  · exact h.finish hx
  · exact h.inv.enterFault (.inl hx) c

theorem inv_init (h : Running .init s) (run : exec .init s = .next t) : Inv t := by
  obtain ⟨p, hq, run⟩ := init_next run
  refine h.runAccess_outsidePrint (by rcases hq with ⟨e, _⟩ | e <;> simp [e, inPrint]) (fun v u hu hx _ => ?_) run
  rcases initLand_after p v u with ⟨q, e⟩ | ⟨b, _, e⟩ <;> rw [e]
  · exact hu.setSeq (.init q) hu.word (.inl hx)
  · exact (hu.setInitOk b).finish hx

theorem inv_txrdy (h : Running .txrdy s) (run : exec .txrdy s = .next t) : Inv t := by
  obtain ⟨hq, run⟩ := txrdy_next run
  exact h.runAccess_outsidePrint (by simp [hq, inPrint])
    (fun v u hu hx _ => (hu.setTxrdy (threSet u.params v)).finish hx) run

theorem inv_sendline (h : Running .sendline s) (run : exec .sendline s = .next t) : Inv t := by
  obtain ⟨p, hq, run⟩ := sendline_next run
  refine h.runAccess_outsidePrint (by rcases hq with e | e <;> simp [e, inPrint]) (fun v u hu hx _ => ?_) run
  rcases sendAfter_cases (ptrText s) (lenCount s) p v u with ⟨q, e, _⟩ | e | ⟨c, e⟩ <;> rw [e]
  · exact hu.setSeq (.sendline q) hu.word (.inl hx)
  · exact hu.finish hx
  · exact hu.inv.enterFault (.inl hx) c

theorem inv_clear (h : Running .clear s) (run : exec .clear s = .next t) : Inv t := by
  obtain ⟨p, hq, run⟩ := clear_next run
  exact h.inv_fill (place := .clear) (fun _ => id) (fun _ hw _ => ⟨And.right, .intro hw.word⟩)
    (fun _ hu hx => hu.finish hx) hq run

/-- Where PrintBody goes on in PRINT, its landing keeps the invariant. -/
theorem inv_printLand (h : Running .print s) {src : TextSrc} {r : State × Flow PrintPt Unit}
    (hr : PrintGoes src s r) : Inv (printLand r) := by
  cases hr with
  | goto q onScreen _ => exact h.setSeq (.print q) ⟨h.word, onScreen⟩ (.inr trivial)
  | ended y hy => exact (h.setCursor h.inv.cols_pos hy (.inl rfl)).finish rfl
  | raised c _ => exact h.inv.enterFault (.inr h.word) c

theorem inv_print (h : Running .print s) (run : exec .print s = .next t) : Inv t := by
  rcases print_next run with ⟨p, hq, run⟩ | ⟨hq, c, rfl⟩
  · have hp : p.onScreen s.params := by
      rcases hq with ⟨_, rfl⟩ | e
      · exact ⟨h.inv.cols_pos, h.inv.cursorY⟩
      · exact (h.inv.fits e).2
    refine h.runAccess (fun _ _ => .inr h.word) (fun v u hu hseq hpar => ?_) run
    rcases printGoes_after (ptrText s) v (hpar ▸ hp) with hr | ⟨x, y, hn, hx, hy, hr⟩
    · exact hu.inv_printLand hr
    · have hin : inPrint u.seq := by
        rcases hq with ⟨_, rfl⟩ | e
        · exact hn.elim
        · rw [hseq, e]; trivial
      exact (hu.setCursor hx hy (.inr hin)).inv_printLand hr
  · exact h.inv.enterFault (.inr h.word) c

theorem inv_printat {col row : Byte} (h : Running (.printat col row) s) (run : exec (.printat col row) s = .next t) :
    Inv t := by
  rcases printat_next run with ⟨p, hq, run⟩ | ⟨hq, c, rfl⟩
  · refine h.runAccess_outsidePrint (by rcases hq with ⟨e, _⟩ | e <;> simp [e, inPrint]) (fun v u hu hx _ => ?_) run
    exact hu.inv_printAtLand (place := .printat) hx (fun q onScreen => ⟨⟨col, row, hu.word⟩, onScreen⟩) _ p v
  · exact h.inv.enterFault (.inl (h.cursorX_eq_zero (by simp [hq, inPrint]))) c

theorem inv_panic (h : Running .panic s) (run : exec .panic s = .next t) : Inv t := by
  rcases panic_next run with ⟨p, hq, run⟩ | ⟨p, hq, run⟩
  · refine h.inv_fill (place := .panicFill) (fun _ => id) (fun _ hw _ => ⟨And.right, .intro hw.word⟩)
      (fun u hu hx => ?_) hq run
    rcases printAtStart_mem u.params.panicCol u.params.panicRow u with ⟨e, -⟩ | ⟨c, e⟩ <;> rw [e]
    · exact hu.setSeq (.panicMsg _) ⟨hu.word, trivial⟩ (.inl hx)
    · exact hu.inv.enterFault (.inl hx) c
  · exact h.runAccess_outsidePrint (by simp [hq, inPrint])
      (fun v u hu hx _ => hu.inv_printAtLand (place := .panicMsg) hx (fun q onScreen => ⟨hu.word, onScreen⟩) _ p v) run

/-! ### BOOT, last phase first as in the model -/

/-- BOOT's Print phase is entered at column 0. -/
theorem inv_bootPrintStart (h : Running .boot s) (hx : s.cursorX = 0#8) :
    Inv (bootPrintLand (printStart (bootText s) s)) := by
  rcases bootPrintLand_start s with ⟨b, e⟩ | ⟨_, p, hp, e⟩ <;> rw [e]
  · exact h.setSeq _ ⟨h.word, ⟨h.inv.cols_pos, h.inv.cursorY⟩, trivial⟩ (.inl hx)
  · have hc := h.setCursor h.inv.cols_pos (wrapRow_lt h.inv.cursorY) (.inl rfl)
    exact hc.setSeq _ ⟨hc.word, hp⟩ (.inl rfl)

/-- The message of BOOT's PanicBody goes on, or the Print phase starts. -/
theorem inv_bootMsgLand (h : Running .boot s) (hx : s.cursorX = 0#8) {r : State × Flow PrintAtPt Unit}
    (hr : (∃ q, r = (s, .goto q) ∧ q.inPanicMsg s.params) ∨ r = (s, .ended ())) : Inv (bootMsgLand r) := by
  rcases hr with ⟨q, rfl, hq⟩ | rfl
  · exact h.setSeq (.bootMsg q) ⟨h.word, hq⟩ (.inl hx)
  · exact h.inv_bootPrintStart hx

theorem inv_bootClear (h : Running .boot s) {p : FillPt} (hq : s.seq = .empty ∧ p = .char 0 ∨ s.seq = .bootClear p)
    (run : Machine.runAccess (fillAccess 0x00#8 0x00#8) fillAfter bootClearLand p s = .next t) : Inv t :=
  h.inv_fill (place := .bootClear) (fun _ => id) (fun _ hw _ => ⟨And.right, .intro hw.word⟩)
    (fun _ hu hx => hu.setSeq (.bootInit .ier) hu.word (.inl hx)) hq run

theorem inv_bootInit (h : Running .boot s) {p : InitPt} (hq : s.seq = .bootInit p)
    (run : Machine.runAccess initAccess initAfter bootInitLand p s = .next t) : Inv t := by
  refine h.runAccess_outsidePrint (by simp [hq, inPrint]) (fun v u hu hx _ => ?_) run
  rcases bootInitLand_after p v u with ⟨q, e⟩ | ⟨_, e⟩ | ⟨_, e⟩ <;> rw [e]
  · exact hu.setSeq (.bootInit q) hu.word (.inl hx)
  · exact (hu.setInitOk false).setSeq (.bootFill (.char 0)) ⟨hu.word, hu.inv.cells_pos⟩ (.inl hx)
  · exact (hu.setInitOk true).inv_bootPrintStart hx

theorem inv_bootFill (h : Running .boot s) {p : FillPt} (hq : s.seq = .bootFill p)
    (run : Machine.runAccess (fillAccess s.params.panicFillChar s.params.panicAttr) fillAfter bootFillLand p s =
      .next t) : Inv t := by
  refine h.inv_fill (place := .bootFill) (fun _ => id) (fun _ hw _ => ⟨And.right, .intro hw.word⟩)
    (fun u hu hx => ?_) (.inr hq) run
  obtain ⟨-, layout⟩ := hu.inv.params
  have ⟨_, _, hcol, hrow, _⟩ := layout
  rw [printAtStart_ok hcol hrow]
  exact hu.inv_bootMsgLand hx (printAtByte_panicMsg layout (Nat.zero_le _))

theorem inv_bootMsg (h : Running .boot s) {p : PrintAtPt} (hq : s.seq = .bootMsg p)
    (run : Machine.runAccess (printAtAccess (panicText s)) (printAtAfter (panicText s)) bootMsgLand p s = .next t) :
    Inv t := by
  refine h.runAccess_outsidePrint (by simp [hq, inPrint]) (fun v u hu hx hpar => hu.inv_bootMsgLand hx ?_) run
  have hp : p.inPanicMsg s.params := (h.inv.fits hq).2
  rw [show panicText s = panicText u by rw [panicText, panicText, hpar]]
  rw [← hpar] at hp
  cases p with
  | read c i => exact hp.elim
  | char c i b =>
    obtain ⟨rfl, hi⟩ := hp
    exact printAtByte_panicMsg hu.inv.params.2 hi

/-- PrintBody of BOOT_MSG is on, or SendBody starts: a Rom text raises no fault (42_boot R174). -/
theorem inv_bootPrintLand (h : Running .boot s) {str : List Byte} {r : State × Flow PrintPt Unit}
    (hr : PrintGoes (.rom str) s r) : Inv (bootPrintLand r) := by
  cases hr with
  | goto q onScreen noRead => exact h.setSeq (.bootPrint q) ⟨h.word, onScreen, noRead str rfl⟩ (.inr trivial)
  | ended y hy =>
    have hc := h.setCursor h.inv.cols_pos hy (.inl rfl)
    obtain ⟨p, hp, hn⟩ := sendLoop_poll s.params.bootMsg.length 0 (s.setCursor 0 y)
    rw [bootPrintLand, land_ended, State.setCursor_params, hp]
    exact hc.setSeq (.bootSend p) ⟨hc.word, hn⟩ (.inl rfl)
  | raised c inMem => obtain ⟨a, ha⟩ := inMem; cases ha

theorem inv_bootPrint (h : Running .boot s) {p : PrintPt} (hq : s.seq = .bootPrint p)
    (run : Machine.runAccess (printAccess (bootText s)) (printAfter (bootText s)) bootPrintLand p s = .next t) :
    Inv t := by
  obtain ⟨_, hp, noRead⟩ := h.inv.fits hq
  refine h.runAccess (fun a ha => ?_) (fun v u hu hseq hpar => ?_) run
  · cases p <;> cases ha
  · rcases printGoes_after (bootText s) v (hpar ▸ hp) with hr | ⟨x, y, _, hx, hy, hr⟩
    · exact hu.inv_bootPrintLand hr
    · exact (hu.setCursor hx hy (.inr (by rw [hseq, hq]; trivial))).inv_bootPrintLand hr

theorem inv_bootSend (h : Running .boot s) {p : SendPt} (hq : s.seq = .bootSend p) {n : Nat}
    (run : Machine.runAccess (sendAccess (bootText s)) (sendAfter (bootText s) n) bootSendLand p s = .next t) :
    Inv t := by
  refine h.runAccess_outsidePrint (by simp [hq, inPrint]) (fun v u hu hx _ => ?_) run
  rcases sendAfter_cases (bootText s) n p v u with ⟨q, e, hn⟩ | e | ⟨c, e⟩ <;> rw [e]
  · exact hu.setSeq (.bootSend q) ⟨hu.word, hn _ rfl⟩ (.inl hx)
  · exact hu.finishDone hx
  · exact hu.inv.enterFault (.inl hx) c

theorem inv_boot (h : Running .boot s) (run : exec .boot s = .next t) : Inv t := by
  cases boot_next run with
  | clear p hq run => exact h.inv_bootClear hq run
  | init p hq run => exact h.inv_bootInit hq run
  | fill p hq run => exact h.inv_bootFill hq run
  | msg p hq run => exact h.inv_bootMsg hq run
  | print p hq run => exact h.inv_bootPrint hq run
  | send p hq run => exact h.inv_bootSend hq run

/-- A step of the command in CMD keeps the invariant. -/
theorem inv_exec {i : Instr} (h : Running i s) (run : exec i s = .next t) : Inv t := by
  cases i with
  | init => exact h.inv_init run
  | txrdy => exact h.inv_txrdy run
  | sendline => exact h.inv_sendline run
  | clear => exact h.inv_clear run
  | print => exact h.inv_print run
  | printat col row => exact h.inv_printat run
  | panic => exact h.inv_panic run
  | boot => exact h.inv_boot run

end Running

/-! ### The invariant through a move of the host -/

theorem Inv.setHost (h : Inv s) (moves : List HostMove) : Inv (s.setHost moves) := { h with }

/-- A command starts from column 0 with SEQ empty, no fault recorded (10_state R27). -/
theorem Inv.start (h : Inv s) (idle : s.state = .idle) (moves : List HostMove) (w : Word) :
    Inv { s with host := moves, cmd := w, state := .busy } := by
  have hseq : s.seq = .empty := h.seqEmpty (by simp [idle])
  have hfc : s.faultCode = none := by have := h.faultCode; simpa [idle] using this
  exact { h with
    column := fun hne => by
      rcases h.column hne with ⟨hf, _⟩ | hp
      · rw [idle] at hf; cases hf
      · rw [hseq] at hp; exact hp.elim
    seqEmpty := fun hb => absurd rfl hb
    seqFits := by simp only [Machine.seqFits, hseq]
    faultCode := by simp [hfc]
    faultCmd := by simp [h.faultCmd, idle]
    doneBoot := by simp }

/-- Reset clears the ENGINE and drops FB's bytes (70_reset R210). -/
theorem Inv.resetEngine (h : Inv s) : Inv s.resetEngine :=
  { h with
    mem := resetEngine_mem_wf h.mem
    inMem := fun c hc => h.inMem c (List.mem_filter.1 hc).1
    cursorX := h.cols_pos
    cursorY := Nat.zero_lt_of_lt h.cursorY
    column := fun hne => absurd rfl hne
    seqEmpty := fun _ => rfl
    seqFits := trivial
    faultCode := by simp
    faultCmd := by simp
    doneBoot := by simp }

/-- Where no command decodes, no print is under way, so the column is 0. -/
theorem Inv.cursorX_eq_zero_of_illegal (h : Inv s) {why : Illegal} (busy : s.state = .busy)
    (word : decode s.cmd = .illegal why) : s.cursorX = 0#8 := by
  refine Classical.byContradiction fun hne => ?_
  rcases h.column hne with ⟨hf, _⟩ | hp
  · rw [busy] at hf; cases hf
  · cases hq : s.seq <;> simp only [hq, inPrint] at hp
    all_goals have := (h.fits hq).1; simp [word] at this

/-- Settles O52, by the kinds of step there are: each is made of updates that keep the invariant. -/
theorem everyStepKeepsTheInvariant : Obligations.EveryStepKeepsTheInvariant := by
  intro s t h run
  cases stepping_of_step run with
  | command moves i busy word run => exact Running.inv_exec ⟨h.setHost moves, busy, word⟩ run
  | illegal moves why busy word =>
    exact (h.setHost moves).enterFault (.inl (h.cursorX_eq_zero_of_illegal busy word)) .illegalCmd
  | start moves w idle => exact h.start idle moves w
  | operands moves ptr len => exact { h with }
  | supplied moves a b text => exact (h.setHost moves).setMem b (lt_of_isTextMemory text)
  | seen moves vs => exact { h with }
  | reset moves asserted => exact (h.setHost moves).resetEngine

end Sys2Proof.Machine
end

section
/-! Which of INIT_OK, TXRDY and CURSOR a step of each command writes (10_state R23, R25), said once; the frames of the
console commands and of the whole machine follow. -/

namespace Sys2Proof.Machine

variable {s t : State}

/-! ### Which flags and cursor registers a step writes -/

/-- INIT_OK, TXRDY and CURSOR are the same. -/
def SameRegs (s t : State) : Prop :=
  t.initOk = s.initOk ∧ t.txrdy = s.txrdy ∧ t.cursorX = s.cursorX ∧ t.cursorY = s.cursorY

theorem SameRegs.setSeq (s : State) (q : Seq) : SameRegs s (s.setSeq q) := ⟨rfl, rfl, rfl, rfl⟩
theorem SameRegs.finish (s : State) : SameRegs s s.finish := ⟨rfl, rfl, rfl, rfl⟩
theorem SameRegs.finishDone (s : State) : SameRegs s s.finishDone := ⟨rfl, rfl, rfl, rfl⟩
theorem SameRegs.enterFault (s : State) (c : FaultCode) : SameRegs s (s.enterFault c) := ⟨rfl, rfl, rfl, rfl⟩

/-- What a step of BOOT leaves of CURSOR outside its Print phase: CURSOR as it was, or the row advanced by the print of an
empty BOOT_MSG, with SendBody next. -/
def PrintPhaseWrites (s t : State) : Prop :=
  SameRegs s t ∨ (s.params.bootMsg.getD 0 0#8 = 0#8 ∧ ∃ p, t.seq = .bootSend p) ∧
    ∃ x y, SameRegs { s with cursorX := x, cursorY := y } t

/-- What of INIT_OK, TXRDY and CURSOR a step of a command writes (10_state R23, R25). -/
def Writes (i : Instr) (s t : State) : Prop :=
  match i with
  | .init => ∃ b, SameRegs { s with initOk := b } t
  | .txrdy => ∃ b, SameRegs { s with txrdy := b } t
  | .print => ∃ x y, SameRegs { s with cursorX := x, cursorY := y } t
  | .boot =>
    (∃ b, PrintPhaseWrites { s with initOk := b } t) ∨
      inPrint s.seq ∧ ∃ x y, SameRegs { s with cursorX := x, cursorY := y } t
  | .sendline => SameRegs s t
  | .clear => SameRegs s t
  | .printat _ _ => SameRegs s t
  | .panic => SameRegs s t

theorem writes_enterFault (i : Instr) (s : State) (c : FaultCode) : Writes i s (s.enterFault c) := by
  have same := SameRegs.enterFault s c
  cases i with
  | init => exact ⟨s.initOk, same⟩
  | txrdy => exact ⟨s.txrdy, same⟩
  | print => exact ⟨s.cursorX, s.cursorY, same⟩
  | boot => exact .inl ⟨s.initOk, .inl same⟩
  | _ => exact same

/-- An access writes none of these registers. -/
theorem Writes.of_perform {i : Instr} {u : State} {a : Access} {v : Byte} (hp : s.perform a = .got v u)
    (h : Writes i u t) : Writes i s t := by
  rw [perform_got hp] at h
  cases i <;> exact h

theorem writes_runAccess {P R : Type} {access : P → State → Option Access}
    {after : P → Byte → State → State × Flow P R} {landing : State × Flow P R → State} {p : P} {i : Instr}
    (hl : ∀ v u, u.seq = s.seq → Writes i u (landing (after p v u)))
    (run : runAccess access after landing p s = .next t) : Writes i s t := by
  obtain ⟨x, _, ⟨v, u, hp, rfl⟩ | ⟨c, _, rfl⟩⟩ := runAccess_next run
  · exact (hl v u (by rw [perform_got hp])).of_perform hp
  · exact writes_enterFault i s c

/-- Where the flow of a body that left the state `u` lands, these registers are the same if what follows the body keeps
them. -/
theorem sameRegs_land {P R : Type} {place : P → Seq} {follow : R → State → State} {u : State} {r : State × Flow P R}
    (hr : r.1 = u) (hf : ∀ x, SameRegs u (follow x u)) : SameRegs u (land place follow r) := by
  obtain ⟨w, f⟩ := r
  cases hr
  cases f with
  | goto p => exact .setSeq w _
  | ended x => exact hf x
  | raised c => exact .enterFault w c

/-- FillBody changes no state of its own. -/
theorem fillAfter_state (p : FillPt) (v : Byte) (s : State) : (fillAfter p v s).1 = s := by
  rcases fillAfter_cases p v s with ⟨q, e, _⟩ | e <;> rw [e]

theorem printAtStart_state (col row : Nat) (src : TextSrc) (s : State) : (printAtStart col row src s).1 = s := by
  unfold printAtStart
  split
  · rfl
  · rcases printAtText_cases src (cellIndex s.params col row) 0 s with ⟨q, e, _⟩ | e | ⟨f, e⟩ <;> rw [e]

theorem sendLoop_state (n i : Nat) (s : State) : (sendLoop n i s).1 = s := by
  obtain ⟨p, e, _⟩ := sendLoop_poll n i s
  rw [e]

theorem sameRegs_panicMsgLand {u : State} {r : State × Flow PrintAtPt Unit} (hr : r.1 = u) :
    SameRegs u (panicMsgLand r) :=
  sameRegs_land hr fun _ => .finish u

theorem sameRegs_panicFillLand {u : State} {r : State × Flow FillPt Unit} (hr : r.1 = u) :
    SameRegs u (panicFillLand r) :=
  sameRegs_land hr fun _ => sameRegs_panicMsgLand (printAtStart_state _ _ _ u)

theorem sameRegs_bootSendLand {u : State} {r : State × Flow SendPt Unit} (hr : r.1 = u) :
    SameRegs u (bootSendLand r) :=
  sameRegs_land hr fun _ => .finishDone u

theorem sameRegs_bootPrintLand {u : State} {r : State × Flow PrintPt Unit} (hr : r.1 = u) :
    SameRegs u (bootPrintLand r) :=
  sameRegs_land hr fun _ => sameRegs_bootSendLand (sendLoop_state _ _ u)

theorem printPhaseWrites_start (s : State) : PrintPhaseWrites s (bootPrintLand (printStart (bootText s) s)) := by
  rcases bootPrintLand_start s with ⟨b, e⟩ | ⟨hm, p, _, e⟩ <;> rw [e]
  · exact .inl (.setSeq s _)
  · exact .inr ⟨⟨hm, p, rfl⟩, _, _, .setSeq _ _⟩

/-- The same where the end of a body may start BOOT's Print phase. -/
theorem printPhaseWrites_land {P R : Type} {place : P → Seq} {follow : R → State → State} {u : State}
    {r : State × Flow P R} (hr : r.1 = u) (hf : ∀ x, PrintPhaseWrites u (follow x u)) :
    PrintPhaseWrites u (land place follow r) := by
  obtain ⟨w, f⟩ := r
  cases hr
  cases f with
  | goto p => exact .inl (.setSeq w _)
  | ended x => exact hf x
  | raised c => exact .inl (.enterFault w c)

theorem printPhaseWrites_bootMsgLand {u : State} {r : State × Flow PrintAtPt Unit} (hr : r.1 = u) :
    PrintPhaseWrites u (bootMsgLand r) :=
  printPhaseWrites_land hr fun _ => printPhaseWrites_start u

theorem printPhaseWrites_bootFillLand {u : State} {r : State × Flow FillPt Unit} (hr : r.1 = u) :
    PrintPhaseWrites u (bootFillLand r) :=
  printPhaseWrites_land hr fun _ => printPhaseWrites_bootMsgLand (printAtStart_state _ _ _ u)

/-- After PrintBody's computation only CURSOR differs. -/
theorem Computed.sameRegs {u w : State} (h : Computed u w) (hw : SameRegs w t) :
    ∃ x y, SameRegs { u with cursorX := x, cursorY := y } t := by
  obtain ⟨x, y, rfl⟩ := h
  exact ⟨x, y, hw⟩

theorem boot_writes (run : exec .boot s = .next t) : Writes .boot s t := by
  cases boot_next run with
  | clear p hq run =>
    exact writes_runAccess (fun v u _ => .inl ⟨u.initOk, .inl (sameRegs_land (fillAfter_state p v u)
      fun _ => .setSeq u _)⟩) run
  | init p hq run =>
    refine writes_runAccess (fun v u _ => .inl ?_) run
    rcases bootInitLand_after p v u with ⟨q, e⟩ | ⟨_, e⟩ | ⟨_, e⟩ <;> rw [e]
    · exact ⟨u.initOk, .inl (.setSeq u _)⟩
    · exact ⟨false, .inl (.setSeq (u.setInitOk false) _)⟩
    · exact ⟨true, printPhaseWrites_start (u.setInitOk true)⟩
  | fill p hq run =>
    exact writes_runAccess (fun v u _ => .inl ⟨u.initOk, printPhaseWrites_bootFillLand (fillAfter_state p v u)⟩) run
  | msg p hq run =>
    exact writes_runAccess (fun v u _ => .inl ⟨u.initOk, printPhaseWrites_bootMsgLand (printAtAfter_state _ p v u)⟩) run
  | print p hq run =>
    refine writes_runAccess (fun v u hseq => .inr ⟨by rw [hseq, hq]; trivial, ?_⟩) run
    exact (computed_printAfter _ _ _ _).sameRegs (sameRegs_bootPrintLand rfl)
  | send p hq run =>
    exact writes_runAccess (fun v u _ => .inl ⟨u.initOk, .inl (sameRegs_bootSendLand (sendAfter_state _ _ p v u))⟩) run

/-- What a step of any command writes of INIT_OK, TXRDY and CURSOR (10_state R23, R25). -/
theorem exec_writes {i : Instr} (run : exec i s = .next t) : Writes i s t := by
  cases i with
  | init =>
    obtain ⟨p, _, run⟩ := init_next run
    refine writes_runAccess (fun v u _ => ?_) run
    rcases initLand_after p v u with ⟨q, e⟩ | ⟨b, _, e⟩ <;> rw [e]
    · exact ⟨u.initOk, .setSeq u _⟩
    · exact ⟨b, .finish (u.setInitOk b)⟩
  | txrdy =>
    obtain ⟨_, run⟩ := txrdy_next run
    refine writes_runAccess (fun v u _ => ?_) run
    exact ⟨threSet u.params v, .finish (u.setTxrdy (threSet u.params v))⟩
  | sendline =>
    obtain ⟨p, _, run⟩ := sendline_next run
    exact writes_runAccess (fun v u _ => sameRegs_land (sendAfter_state _ _ p v u) fun _ => .finish u) run
  | clear =>
    obtain ⟨p, _, run⟩ := clear_next run
    exact writes_runAccess (fun v u _ => sameRegs_land (fillAfter_state p v u) fun _ => .finish u) run
  | print =>
    rcases print_next run with ⟨p, _, run⟩ | ⟨_, c, rfl⟩
    · exact writes_runAccess (fun v u _ => (computed_printAfter _ p v u).sameRegs
        (sameRegs_land rfl fun _ => .finish _)) run
    · exact writes_enterFault .print s c
  | printat col row =>
    rcases printat_next run with ⟨p, _, run⟩ | ⟨_, c, rfl⟩
    · exact writes_runAccess (fun v u _ => sameRegs_land (printAtAfter_state _ p v u) fun _ => .finish u) run
    · exact writes_enterFault (.printat col row) s c
  | panic =>
    rcases panic_next run with ⟨p, _, run⟩ | ⟨p, _, run⟩
    · exact writes_runAccess (fun v u _ => sameRegs_panicFillLand (fillAfter_state p v u)) run
    · exact writes_runAccess (fun v u _ => sameRegs_panicMsgLand (printAtAfter_state _ p v u)) run
  | boot => exact boot_writes run

/-! ### Who does not write -/

theorem Writes.initOk {i : Instr} (h : Writes i s t) (init : i ≠ .init) (boot : i ≠ .boot) : t.initOk = s.initOk := by
  cases i with
  | init => exact absurd rfl init
  | boot => exact absurd rfl boot
  | txrdy => obtain ⟨_, hi, _⟩ := h; exact hi
  | print => obtain ⟨_, _, hi, _⟩ := h; exact hi
  | _ => obtain ⟨hi, _⟩ := h; exact hi

theorem PrintPhaseWrites.txrdy (h : PrintPhaseWrites s t) : t.txrdy = s.txrdy := by
  rcases h with ⟨_, ht, _⟩ | ⟨_, _, _, _, ht, _⟩ <;> exact ht

theorem Writes.txrdy {i : Instr} (h : Writes i s t) (txrdy : i ≠ .txrdy) : t.txrdy = s.txrdy := by
  cases i with
  | txrdy => exact absurd rfl txrdy
  | init => obtain ⟨_, _, ht, _⟩ := h; exact ht
  | print => obtain ⟨_, _, _, ht, _⟩ := h; exact ht
  | boot =>
    rcases h with ⟨b, hw⟩ | ⟨_, _, _, _, ht, _⟩
    · exact hw.txrdy
    · exact ht
  | _ => obtain ⟨_, ht, _⟩ := h; exact ht

theorem Writes.cursor {i : Instr} (h : Writes i s t) (print : i ≠ .print) (boot : i ≠ .boot) :
    t.cursorX = s.cursorX ∧ t.cursorY = s.cursorY := by
  cases i with
  | print => exact absurd rfl print
  | boot => exact absurd rfl boot
  | init => obtain ⟨_, _, _, hxy⟩ := h; exact hxy
  | txrdy => obtain ⟨_, _, _, hxy⟩ := h; exact hxy
  | _ => obtain ⟨_, _, hxy⟩ := h; exact hxy

/-- BOOT moves CURSOR in its Print phase only (10_state R25). -/
theorem Writes.bootCursor (h : Writes .boot s t) (hne : t.cursorX ≠ s.cursorX ∨ t.cursorY ≠ s.cursorY) :
    inPrint s.seq ∨ s.params.bootMsg.getD 0 0#8 = 0#8 ∧ ∃ p, t.seq = .bootSend p := by
  rcases h with ⟨_, ⟨_, _, hx, hy⟩ | ⟨empty, _⟩⟩ | ⟨hin, _⟩
  · exact absurd hne (by simp [hx, hy])
  · exact .inr empty
  · exact .inl hin

/-! ### What a step keeps of the other registers -/

/-- The registers no command writes (10_state R22; 00_scope R6). -/
structure SameCommand (s t : State) : Prop where
  params : t.params = s.params
  cmd : t.cmd = s.cmd
  ptr : t.ptr = s.ptr
  len : t.len = s.len
  resets : t.resets = s.resets
  host : t.host = s.host
  seen : t.seen = s.seen

theorem Stepped.sameCommand {x : Option Access} (h : Stepped s t x) : SameCommand s t := by
  rcases h with ⟨a, v, u, _, hp, hl⟩ | ⟨_, c, rfl⟩
  · rw [perform_got hp] at hl
    exact ⟨hl.params, hl.cmd, hl.ptr, hl.len, hl.resets, hl.host, hl.seen⟩
  · exact ⟨rfl, rfl, rfl, rfl, rfl, rfl, rfl⟩

/-- FAULT_CODE and FAULT_CMD are written at fault entry only, and FAULT_CMD is then CMD (10_state R26, 60_exceptions
R183). -/
theorem Stepped.faultRegs {x : Option Access} (h : Stepped s t x) :
    ((t.state = s.state ∨ t.state = .idle ∨ t.state = .done) ∧ t.faultCode = s.faultCode ∧ t.faultCmd = s.faultCmd) ∨
      t.state = .fault ∧ t.faultCmd = s.cmd := by
  rcases h with ⟨a, v, u, _, hp, hl⟩ | ⟨_, c, rfl⟩
  · have ends := hl.ends
    rw [perform_got hp] at ends
    rcases ends with ⟨hs, hc, hw⟩ | ⟨hs, _, hc, hw⟩ | ⟨_, hs, _, hw, _⟩
    · exact .inl ⟨.inl hs, hc, hw⟩
    · exact .inl ⟨.inr hs, hc, hw⟩
    · exact .inr ⟨hs, hw⟩
  · exact .inr ⟨rfl, rfl⟩

/-! ### The console commands -/

/-- The access reaches memory and not the UART. -/
def Access.onMemory : Access → Prop
  | .portRead _ => False
  | .portWrite _ _ => False
  | .memRead _ => True
  | .memWrite _ _ => True

theorem fillAccess_memWrite (ch attr : Byte) (p : FillPt) (s : State) :
    ∃ a v, fillAccess ch attr p s = some (.memWrite a v) := by
  cases p with
  | char c => exact ⟨_, _, rfl⟩
  | attr c => exact ⟨_, _, rfl⟩

theorem fillAccess_onMemory (ch attr : Byte) (p : FillPt) (s : State) :
    ∀ a ∈ fillAccess ch attr p s, a.onMemory := by
  obtain ⟨a, v, e⟩ := fillAccess_memWrite ch attr p s
  rw [e]
  rintro _ ⟨⟩
  trivial

theorem textAccess_onMemory (src : TextSrc) (i : Nat) : ∀ a ∈ textAccess src i, a.onMemory := by
  cases src with
  | mem p => rintro a ⟨⟩; trivial
  | rom str => rintro a ⟨⟩

theorem printAccess_onMemory (src : TextSrc) (p : PrintPt) (s : State) :
    ∀ a ∈ printAccess src p s, a.onMemory := by
  cases p with
  | read i col row => exact textAccess_onMemory src i
  | char i col row b => rintro a ⟨⟩; trivial
  | attr i col row => rintro a ⟨⟩; trivial

theorem printAtAccess_onMemory (src : TextSrc) (p : PrintAtPt) (s : State) :
    ∀ a ∈ printAtAccess src p s, a.onMemory := by
  cases p with
  | read c i => exact textAccess_onMemory src i
  | char c i b => rintro a ⟨⟩; trivial

theorem firstAccess_onMemory {P R : Type} {access : P → State → Option Access}
    (h : ∀ p s, ∀ a ∈ access p s, a.onMemory) (r : State × Flow P R) : ∀ a ∈ firstAccess access r, a.onMemory := by
  obtain ⟨w, f⟩ := r
  cases f with
  | goto p => exact h p w
  | ended x => rintro a ⟨⟩
  | raised c => rintro a ⟨⟩

/-- The console family makes no port access (41_console R130, R131, R134, R135). -/
theorem console_onMemory {i : Instr} (hi : i = .clear ∨ i = .print ∨ (∃ col row, i = .printat col row) ∨ i = .panic)
    (s : State) : ∀ a ∈ nextAccess i s, a.onMemory := by
  rcases hi with rfl | rfl | ⟨col, row, rfl⟩ | rfl
  · change ∀ a ∈ clearNext s, a.onMemory
    unfold clearNext
    split
    · exact fillAccess_onMemory _ _ _ s
    · exact fillAccess_onMemory _ _ _ s
    · rintro a ⟨⟩
  · change ∀ a ∈ printNext s, a.onMemory
    unfold printNext
    split
    · exact firstAccess_onMemory (printAccess_onMemory _) _
    · exact printAccess_onMemory _ _ s
    · rintro a ⟨⟩
  · change ∀ a ∈ printatNext col row s, a.onMemory
    unfold printatNext
    split
    · exact firstAccess_onMemory (printAtAccess_onMemory _) _
    · exact printAtAccess_onMemory _ _ s
    · rintro a ⟨⟩
  · change ∀ a ∈ panicNext s, a.onMemory
    unfold panicNext
    split
    · exact fillAccess_onMemory _ _ _ s
    · exact fillAccess_onMemory _ _ _ s
    · exact printAtAccess_onMemory _ _ s
    · rintro a ⟨⟩

/-- An access to memory leaves the UART and the last port event alone. -/
theorem perform_onMemory {a : Access} (ha : a.onMemory) {u : State} {v : Byte} (hp : s.perform a = .got v u) :
    u.uart = s.uart ∧ lastPortEvent u.history = lastPortEvent s.history := by
  rcases perform_cases s a with ⟨_, rfl, _⟩ | ⟨_, _, rfl, _⟩ | ⟨_, _, _, e⟩ | ⟨_, _, _, _, e⟩ | ⟨_, _, _, _, e⟩ |
    ⟨_, _, _, _, e⟩
  · exact ha.elim
  · exact ha.elim
  all_goals rw [e] at hp; cases hp
  · exact ⟨rfl, rfl⟩
  · exact ⟨rfl, rfl⟩

theorem Stepped.onMemory {x : Option Access} (h : Stepped s t x) (hx : ∀ a ∈ x, a.onMemory) :
    t.uart = s.uart ∧ lastPortEvent t.history = lastPortEvent s.history := by
  rcases h with ⟨a, v, u, rfl, hp, hl⟩ | ⟨_, c, rfl⟩
  · rw [hl.uart, hl.history]
    exact perform_onMemory (hx a rfl) hp
  · exact ⟨rfl, rfl⟩

/-- A write raises no fault of the spec (20_memory R65). -/
theorem perform_memWrite_ne_raised (s : State) (a : Nat) (v : Byte) (c : FaultCode) :
    s.perform (.memWrite a v) ≠ .raised c := by
  simp only [State.perform]
  split <;> simp

/-- CLEAR raises no fault (41_console R130). -/
theorem clear_faultRegs (run : exec .clear s = .next t) : t.faultCode = s.faultCode ∧ t.faultCmd = s.faultCmd := by
  obtain ⟨p, _, run⟩ := clear_next run
  obtain ⟨a, b, ha⟩ := fillAccess_memWrite 0x00#8 0x00#8 p s
  obtain ⟨x, hx, ⟨v, u, hp, rfl⟩ | ⟨c, hp, rfl⟩⟩ := runAccess_next run
  · have hu := perform_got hp
    rcases fillAfter_cases p v u with ⟨q, e, _⟩ | e <;> rw [e, hu] <;> exact ⟨rfl, rfl⟩
  · cases ha.symm.trans hx
    exact absurd hp (perform_memWrite_ne_raised s a b c)

/-- Settles O38: the flags and CURSOR by what each command writes, the UART by the accesses being memory's. -/
theorem consoleCommandsFrame : Obligations.ConsoleCommandsFrame := by
  intro i s t hi run
  have stepped := exec_next run
  have same := stepped.sameCommand
  have writes := exec_writes run
  have hi' : i ≠ .init ∧ i ≠ .txrdy ∧ i ≠ .boot := by
    rcases hi with rfl | rfl | ⟨_, _, rfl⟩ | rfl <;> simp
  obtain ⟨init, txrdy, boot⟩ := hi'
  obtain ⟨uart, port⟩ := stepped.onMemory (console_onMemory hi s)
  refine ⟨same.params, same.cmd, same.ptr, same.len, writes.initOk init boot, writes.txrdy txrdy, uart, same.resets,
    same.host, same.seen, port, fun print => writes.cursor print boot, fun h => ?_⟩
  rcases h with rfl | h
  · exact clear_faultRegs run
  · rcases stepped.faultRegs with ⟨_, kept⟩ | ⟨hs, _⟩
    · exact kept
    · exact absurd hs h

/-! ### The whole machine -/

/-- Settles O47, by the kinds of step there are and what each command writes. -/
theorem cursorWrittenOnlyByPrint : Obligations.CursorWrittenOnlyByPrint := by
  intro s t run hne
  cases stepping_of_step run with
  | command moves i busy word run =>
    have writes := exec_writes run
    refine .inr ?_
    by_cases print : i = .print
    · exact .inl ⟨busy, print ▸ word⟩
    · by_cases boot : i = .boot
      · subst boot
        exact .inr ⟨busy, word, writes.bootCursor hne⟩
      · obtain ⟨hx, hy⟩ := writes.cursor print boot
        exact absurd hne (by simp [hx, hy])
  | reset moves asserted => exact .inl ⟨moves, asserted⟩
  | _ => exact absurd hne (by simp)

/-- Settles O48, by the kinds of step there are and what each command writes. -/
theorem flagsHaveTheirWriters : Obligations.FlagsHaveTheirWriters := by
  intro s t run
  cases stepping_of_step run with
  | command moves i busy word run =>
    have writes := exec_writes run
    refine ⟨(exec_next run).sameCommand.params, fun hne => .inr ⟨busy, ?_⟩, fun hne => .inr ⟨busy, ?_⟩⟩
    · by_cases init : i = .init
      · exact .inl (init ▸ word)
      · by_cases boot : i = .boot
        · exact .inr (boot ▸ word)
        · exact absurd (writes.initOk init boot) hne
    · by_cases txrdy : i = .txrdy
      · exact txrdy ▸ word
      · exact absurd (writes.txrdy txrdy) hne
  | reset moves asserted => exact ⟨rfl, fun _ => .inl ⟨moves, asserted⟩, fun _ => .inl ⟨moves, asserted⟩⟩
  | _ => exact ⟨rfl, fun hne => absurd rfl hne, fun hne => absurd rfl hne⟩

/-- Settles O49: a step keeps FAULT_CMD, or enters FAULT with CMD in it, or is reset. -/
theorem faultCmdHoldsTheFaultingWord : Obligations.FaultCmdHoldsTheFaultingWord := by
  refine ⟨rfl, fun s t run => ?_⟩
  cases stepping_of_step run with
  | command moves i busy word run =>
    rcases (exec_next run).faultRegs with ⟨hs, _, hw⟩ | ⟨hs, hw⟩
    · refine ⟨fun hns hf => ?_, fun hne => absurd hw hne⟩
      simp [hf, busy] at hs
    · exact ⟨fun _ _ => hw, fun _ => .inr ⟨busy, hs⟩⟩
  | illegal moves why busy word => exact ⟨fun _ _ => rfl, fun _ => .inr ⟨busy, rfl⟩⟩
  | start moves w idle => exact ⟨nofun, fun hne => absurd rfl hne⟩
  | reset moves asserted => exact ⟨nofun, fun _ => .inl ⟨⟨moves, asserted⟩, rfl⟩⟩
  | _ => exact ⟨fun hns hf => absurd hf hns, fun hne => absurd rfl hne⟩

end Sys2Proof.Machine
end

section
/-! The registers as the host sees them, the command it places, the text it supplies, and reset (10_state R22 to R24, R27,
R32; 70_reset R210). -/

namespace Sys2Proof.Machine

variable {s : State}

/-! ### STATUS and CURSOR -/

/-- STATE's code is a number of two bits (10_state R23). -/
theorem stateCode_toNat_lt (e : EngState) : (stateCode e).toNat < 2 ^ 2 := by
  cases e <;> decide

theorem stateCode_getLsbD_high (e : EngState) {i : Nat} (h : 2 ≤ i) : (stateCode e).getLsbD i = false :=
  Nat.testBit_lt_two_pow (Nat.lt_of_lt_of_le (stateCode_toNat_lt e) (Nat.pow_le_pow_right (by decide) h))

theorem bitWord_getLsbD (b : Bool) (i : Nat) : (bitWord b).getLsbD i = (decide (i = 0) && b) := by
  cases b <;> simp [bitWord, BitVec.getLsbD_one]

/-- Bit i of STATUS: the field the bit belongs to has it (10_state R23). -/
theorem statusWord_getLsbD (s : State) {i : Nat} (hi : i < 32) : s.statusWord.getLsbD i =
    if i < 2 then (stateCode s.state).getLsbD i
    else if i = 2 then s.initOk
    else if i = 3 then s.txrdy
    else if 8 ≤ i then (faultCodeByte s.faultCode).getLsbD (i - 8)
    else false := by
  simp only [State.statusWord, BitVec.getLsbD_or, BitVec.getLsbD_shiftLeft, BitVec.getLsbD_setWidth, bitWord_getLsbD, hi]
  split
  · rename_i h
    simp [h, show i < 3 by omega, show i < 8 by omega]
  · rename_i h
    rw [stateCode_getLsbD_high _ (by omega)]
    by_cases h2 : i = 2
    · subst h2; simp
    by_cases h3 : i = 3
    · subst h3; simp
    by_cases h8 : 8 ≤ i
    · simp [h, h2, h3, h8, show i - 2 ≠ 0 by omega, show i - 3 ≠ 0 by omega, show ¬ i < 8 by omega]; omega
    · simp [h, h2, h3, h8, show i - 2 ≠ 0 by omega, show i - 3 ≠ 0 by omega, show i < 8 by omega]

/-- Bit i of CURSOR: CURSOR_X below bit 8, CURSOR_Y from there (10_state R24). -/
theorem cursorWord_getLsbD (s : State) {i : Nat} (hi : i < 32) : s.cursorWord.getLsbD i =
    if i < 8 then s.cursorX.getLsbD i else s.cursorY.getLsbD (i - 8) := by
  simp only [State.cursorWord, BitVec.getLsbD_or, BitVec.getLsbD_shiftLeft, BitVec.getLsbD_setWidth, hi]
  split
  · simp [*]
  · rename_i h
    rw [BitVec.getLsbD_of_ge s.cursorX i (by omega)]
    simp [h, show i - 8 < 32 by omega]

/-- A field of a word, bit by bit. -/
theorem extractLsb'_eq_of_getLsbD {w n : Nat} {x : BitVec w} {start : Nat} {y : BitVec n}
    (h : ∀ i, i < n → x.getLsbD (start + i) = y.getLsbD i) : x.extractLsb' start n = y := by
  apply BitVec.eq_of_getLsbD_eq
  intro i hi
  rw [BitVec.getLsbD_extractLsb', h i hi]
  simp [hi]

/-- Settles O12, field by field: STATUS's and CURSOR's bits are those of their fields. -/
theorem statusAndCursorFields : Obligations.StatusAndCursorFields := by
  intro s
  refine ⟨?state, ?initOk, ?txrdy, ?reserved4, ?faultCode, ?reserved16, ?cursorX, ?cursorY, ?cursorReserved⟩
  case state =>
    refine Eq.trans (b := (stateCode s.state).extractLsb' 0 2) ?_ (by cases s.state <;> rfl)
    refine extractLsb'_eq_of_getLsbD fun i hi => ?_
    rw [statusWord_getLsbD s (by omega), if_pos (by omega), BitVec.getLsbD_extractLsb']
    simp [hi]
  case initOk => exact statusWord_getLsbD s (by decide)
  case txrdy => exact statusWord_getLsbD s (by decide)
  case reserved4 =>
    refine extractLsb'_eq_of_getLsbD fun i hi => ?_
    rw [statusWord_getLsbD s (by omega), if_neg (by omega), if_neg (by omega), if_neg (by omega), if_neg (by omega),
      BitVec.getLsbD_zero]
  case faultCode =>
    refine extractLsb'_eq_of_getLsbD fun i hi => ?_
    rw [statusWord_getLsbD s (by omega), if_neg (by omega), if_neg (by omega), if_neg (by omega), if_pos (by omega),
      Nat.add_sub_cancel_left]
    cases s.faultCode with
    | none => rfl
    | some c => cases c <;> rfl
  case reserved16 =>
    refine extractLsb'_eq_of_getLsbD fun i hi => ?_
    rw [statusWord_getLsbD s (by omega), if_neg (by omega), if_neg (by omega), if_neg (by omega), if_pos (by omega),
      BitVec.getLsbD_of_ge _ _ (by omega), BitVec.getLsbD_zero]
  case cursorX =>
    refine extractLsb'_eq_of_getLsbD fun i hi => ?_
    rw [cursorWord_getLsbD s (by omega), if_pos (by omega), Nat.zero_add]
  case cursorY =>
    refine extractLsb'_eq_of_getLsbD fun i hi => ?_
    rw [cursorWord_getLsbD s (by omega), if_neg (by omega), Nat.add_sub_cancel_left]
  case cursorReserved =>
    refine extractLsb'_eq_of_getLsbD fun i hi => ?_
    rw [cursorWord_getLsbD s (by omega), if_neg (by omega), BitVec.getLsbD_of_ge _ _ (by omega), BitVec.getLsbD_zero]

/-! ### The command in CMD -/

/-- All 32 bits of a command word are the table word's (30_encoding R80). -/
theorem tableWord_32 (w : Nat) : tableWord 32 w = BitVec.ofNat 32 w := by
  apply BitVec.eq_of_toNat_eq
  simp [tableWord]

theorem decode_of_decodeTableWord {w : Nat} {i : Instr} (h : decodeTableWord 32 w = some i) :
    decode (BitVec.ofNat 32 w) = .command i := by
  unfold decodeTableWord at h
  rw [tableWord_32] at h
  split at h
  case h_1 j hj => cases h; exact hj
  case h_2 => cases h

theorem engineBusy_command {i : Instr} (h : decode s.cmd = .command i) : engineBusy s = exec i s := by
  simp [engineBusy, h]

/-- Settles O5: each of the three lets the ENGINE step on the command CMD decodes to. -/
theorem stepRunsTheDecodedCommand : Obligations.StepRunsTheDecodedCommand := by
  intro s i busy word
  have hd : decode s.cmd = .command i := by
    have := decode_of_decodeTableWord word
    rwa [BitVec.ofNat_toNat, BitVec.setWidth_eq] at this
  refine ⟨fun host => step_busy busy host hd, fun rest host => ?_, fun rest host => ?_⟩
  · rw [← engineBusy_command hd]
    simp [step, systemStep, host, hostMove, hostAwait, busy]
  · rw [show { s with host := rest } = s.setHost rest from rfl, ← engineBusy_command (s := s.setHost rest) hd]
    simp [step, systemStep, host, hostMove, hostLetRun, busy]

/-- Settles O6: the placed state is BUSY with that word in CMD, so its step is exec of the word's command. -/
theorem placedCommandRunsNext : Obligations.PlacedCommandRunsNext := by
  intro s w i word
  have hcmd : (s.withFetchWord 32 w).cmd = BitVec.ofNat 32 w := tableWord_32 w
  have hd : decode (s.withFetchWord 32 w).cmd = .command i := hcmd ▸ decode_of_decodeTableWord word
  exact ⟨step_busy rfl rfl hd, hcmd, rfl, rfl, rfl, hd⟩

/-! ### The register window -/

/-- The value at an offset of the window (10_state R22). -/
theorem hostRegRead_at (s : State) (off : Nat) : hostRegRead s (hostRegAt off) =
    (if off = 0x00 then s.cmd else if off = 0x04 then s.ptr else if off = 0x08 then s.len
      else if off = 0x0C then s.statusWord else if off = 0x10 then s.cursorWord
      else if off = 0x14 then s.faultCmd else 0x00000000#32) := by
  unfold hostRegAt
  repeat' split
  all_goals rfl

theorem step_write {addr : Nat} {v : Word} {rest : List HostMove} (h : s.host = .write addr v :: rest) :
    step s = hostWrite (s.setHost rest) addr v := by
  simp [step, systemStep, h, hostMove]

theorem step_read {addr : Nat} {rest : List HostMove} (h : s.host = .read addr :: rest) :
    step s = hostRead (s.setHost rest) addr := by
  simp [step, systemStep, h, hostMove]

/-- A write at an aligned offset is a write of its register (10_state R22). -/
theorem step_write_offset {off : Nat} {v : Word} {rest : List HostMove}
    (h : s.host = .write (s.params.hostBase + off) v :: rest) (aligned : off % 4 = 0) :
    step s = hostRegWrite (s.setHost rest) (hostRegAt off) v :=
  (step_write h).trans (hostWrite_offset (s := s.setHost rest) aligned v)

theorem hostWriteCmd_idle (h : s.state = .idle) (w : Word) :
    hostWriteCmd s w = .next { s with cmd := w, state := .busy } := by
  simp [hostWriteCmd, h]

/-- Where no register is, neither access exists (10_state R22). -/
theorem step_noRegister {addr : Nat} {v : Word} {rest : List HostMove}
    (h : s.host = .read addr :: rest ∨ s.host = .write addr v :: rest) :
    (hostPlace s.params addr = .outside → step s = .fault .hostOutsideWindow) ∧
    (hostPlace s.params addr = .misaligned → step s = .fault .hostMisaligned) := by
  rcases h with h | h
  · rw [step_read h]
    constructor <;> intro hp <;> simp [hostRead, hp]
  · rw [step_write h]
    constructor <;> intro hp <;> simp [hostWrite, hp]

/-- Settles O9: reads, writes, the accesses that do not exist, and the reset values, by what the address is. -/
theorem hostRegisterWindow : Obligations.HostRegisterWindow := by
  refine ⟨?reads, ?writes, ?noRegister, ?resetValues⟩
  case reads =>
    intro s off rest host aligned granted
    have hg : s.state ≠ .busy ∨ readableWhileBusy (hostRegAt off) = true := by
      rcases granted with h | rfl | rfl
      · exact .inl h
      · exact .inr rfl
      · exact .inr rfl
    rw [← hostRegRead_at s off]
    exact (step_read host).trans ((hostRead_offset (s := s.setHost rest) aligned).trans (hostReadReg_granted hg))
  case writes =>
    intro s off v rest host aligned
    rw [step_write_offset host aligned]
    refine ⟨?cmd, ?ptr, ?len, fun h => hostRegWrite_noEffect h _ v⟩
    case cmd => rintro rfl idle; exact hostWriteCmd_idle (s := s.setHost rest) idle v
    case ptr => rintro rfl idle; exact hostOperandWrite_idle (s := s.setHost rest) idle _
    case len => rintro rfl idle; exact hostOperandWrite_idle (s := s.setHost rest) idle _
  case noRegister =>
    intro s addr v rest host
    obtain ⟨outside, misaligned⟩ := step_noRegister host
    refine ⟨fun h => outside (hostPlace_below h), ?_⟩
    rintro off rfl h
    exact misaligned (by rw [hostPlace_offset, if_neg h])
  case resetValues => decide

/-! ### Text the host supplies -/

/-- Settles O11: the supply move is one write of memory. -/
theorem suppliedTextIsRead : Obligations.SuppliedTextIsRead := by
  intro s a b rest host notBusy outsideFb readable inMem
  have text : isTextMemory s.params a = true := by simp [isTextMemory, outsideFb, readable, inMem]
  refine ⟨(s.setHost rest).setMem (memWrite s.mem a b), ?_, byteAt_setMem_same (s.setHost rest) a b,
    fun x hx => ?_, rfl⟩
  · simp [step, systemStep, host, hostMove, hostSupply, notBusy, text]
  · exact (byteAt_setMem_other (s.setHost rest) b hx).trans (byteAt_congr rfl rfl rfl x)

/-! ### Reset -/

/-- Settles O13: the reset move is `resetEngine`, whose fields and bytes are known. -/
theorem resetFromAnyState : Obligations.ResetFromAnyState := by
  intro s rest host
  refine ⟨(s.setHost rest).resetEngine, by simp [step, systemStep, host, hostMove], rfl, rfl, rfl, rfl, rfl, rfl, rfl, rfl,
    rfl, rfl, rfl, rfl, rfl, rfl, rfl, fun a ha => ?_, fun a ha => ?_⟩
  · exact resetEngine_byteAt_fb (s := s.setHost rest) ha
  · exact (resetEngine_byteAt (s := s.setHost rest) ha).trans (byteAt_congr rfl rfl rfl a)

/-- Settles O51: nothing is listed in memory, nothing runs, and the parameters are valid. -/
theorem resetMeetsTheInvariant : Obligations.ResetMeetsTheInvariant where
  params := referenceParams_valid
  mem := reset_mem_wf
  inMem := by simp [State.reset]
  cursorX := by decide
  cursorY := by decide
  column := fun hne => absurd rfl hne
  seqEmpty := fun _ => rfl
  seqFits := trivial
  faultCode := by decide
  faultCmd := rfl
  doneBoot := nofun

end Sys2Proof.Machine
end

section
/-! DIVISOR programmed: the two writes of InitBody's step 3 and what they leave of the reference device (10_state R49,
40_uart R103, R106). -/

namespace Sys2Proof.Machine

/-- With DLAB set a write at offset 0 reaches DLL (10_state R41, R49). -/
theorem Uart.afterWrite_data_dlab {u : Uart} (hm : u.mode = .ref ∨ u.mode = .refNoEcho) (hd : u.dlab = true) (v : Byte) :
    u.afterWrite .data v = { u with dll := v } := by
  rcases hm with hm | hm <;> simp [Uart.afterWrite, hm, Uart.refWrite, hd]

/-- With DLAB set a write at offset 1 reaches DLM (10_state R41, R49). -/
theorem Uart.afterWrite_intEnable_dlab {u : Uart} (hm : u.mode = .ref ∨ u.mode = .refNoEcho) (hd : u.dlab = true)
    (v : Byte) : u.afterWrite .intEnable v = { u with dlm := v } := by
  rcases hm with hm | hm <;> simp [Uart.afterWrite, hm, Uart.refWrite, hd]

/-- The two writes of InitBody's step 3 (40_uart R103). -/
def divisorWritten (s : State) : State :=
  (s.afterPortWrite .data (divisorLow s.params)).afterPortWrite .intEnable (divisorHigh s.params)

/-- On a reference device with DLAB set the latches then hold DIVISOR (10_state R49). -/
theorem divisorWritten_latches {s : State} (hm : s.uart.mode = .ref ∨ s.uart.mode = .refNoEcho)
    (hd : s.uart.dlab = true) : (divisorWritten s).uart.divisor = s.params.divisor.bits.toNat := by
  have low := Uart.afterWrite_data_dlab hm hd (divisorLow s.params)
  have high := Uart.afterWrite_intEnable_dlab (u := { s.uart with dll := divisorLow s.params }) hm hd
    (divisorHigh s.params)
  refine Uart.divisor_of_latches (p := s.params) ?_ ?_ <;>
    simp only [divisorWritten, State.afterPortWrite_uart, low, high]

/-- The low byte, then the high byte, and with them a divisor that is not 0 (10_state R49, 40_uart R106). -/
theorem programsDivisor_divisorWritten (s : State) (q : Seq) : ProgramsDivisor s ((divisorWritten s).setSeq q) := by
  refine ⟨rfl, ?_, fun hm hd => ?_⟩
  · rw [divisor_bytes]
    exact s.params.divisor.valid
  · rw [State.setSeq_uart, divisorWritten_latches hm hd]
    exact ⟨rfl, divisor_pos s.params, baudRate_divisor s.params⟩

/-- Settles O56: in INIT and in BOOT the two steps make these two writes and SEQ moves on. -/
theorem initProgramsAValidDivisor : Obligations.InitProgramsAValidDivisor := by
  intro s
  constructor <;> intro hq
  · refine ⟨(s.afterPortWrite .data (divisorLow s.params)).setSeq (.init .dlm),
      (divisorWritten s).setSeq (.init .lcr8n1), ?_, rfl, rfl, programsDivisor_divisorWritten s _⟩
    simp only [exec, execInit, hq]
    exact runAccess_portWrite rfl
  · refine ⟨(s.afterPortWrite .data (divisorLow s.params)).setSeq (.bootInit .dlm),
      (divisorWritten s).setSeq (.bootInit .lcr8n1), ?_, rfl, rfl, programsDivisor_divisorWritten s _⟩
    simp only [exec, execBoot, hq]
    exact runAccess_portWrite rfl

end Sys2Proof.Machine
end

section
/-! The access of a step, performed (20_memory R60, R64, R65, R68, R77): the event it records and the byte it leaves in
memory; then what a step of a command records and stores. -/

namespace Sys2Proof.Machine

variable {s t u : State} {x : Access} {v : Byte}

/-! ### Performing an access -/

/-- An access that is performed records its own event and no other, and a read that is performed was admitted. -/
theorem perform_event (hp : s.perform x = .got v u) :
    (∀ a, x = .memRead a → Admitted s a) ∧ u.history = eventOf s x :: s.history := by
  rcases perform_cases s x with ⟨_, rfl, e⟩ | ⟨_, _, rfl, e⟩ | ⟨_, rfl, hr, e⟩ | ⟨_, _, _, _, e⟩ | ⟨_, _, rfl, _, e⟩ |
    ⟨_, _, _, _, e⟩ <;> rw [e] at hp <;> cases hp
  case inr.inr.inl => exact ⟨by rintro _ ⟨⟩; exact admitted_of_readFault hr, rfl⟩
  all_goals exact ⟨nofun, rfl⟩

/-- Only a read that is not admitted raises a fault. -/
theorem perform_raised {c : FaultCode} (hp : s.perform x = .raised c) : ∃ a, x = .memRead a ∧ ¬ Admitted s a := by
  rcases perform_cases s x with ⟨_, _, e⟩ | ⟨_, _, _, e⟩ | ⟨_, _, _, e⟩ | ⟨a, _, rfl, hr, e⟩ | ⟨_, _, _, _, e⟩ |
    ⟨_, _, _, _, e⟩ <;> rw [e] at hp <;> cases hp
  refine ⟨a, rfl, fun admitted => ?_⟩
  rw [readFault_of_admitted admitted] at hr
  cases hr

/-- A write is performed inside FB only. -/
theorem perform_memWrite {a : Nat} {w : Byte} (hp : s.perform (.memWrite a v) = .got w u) :
    inFb s.params a = true ∧ u = s.afterMemWrite a v := by
  cases h : inFb s.params a <;> simp only [State.perform, h] at hp <;> cases hp
  exact ⟨rfl, rfl⟩

theorem perform_memWrite_of_inFb {a : Nat} (h : inFb s.params a = true) :
    s.perform (.memWrite a v) = .got 0x00#8 (s.afterMemWrite a v) :=
  if_pos h

/-- An access other than a write leaves every byte of memory as it was. -/
theorem perform_byteAt (hp : s.perform x = .got v u) (hx : ∀ a w, x ≠ .memWrite a w) (b : Nat) :
    u.byteAt b = s.byteAt b := by
  rcases perform_cases s x with ⟨r, _, e⟩ | ⟨r, w, _, e⟩ | ⟨a, _, _, e⟩ | ⟨_, _, _, _, e⟩ | ⟨a, w, hw, _, _⟩ |
    ⟨_, _, _, _, e⟩
  case inr.inr.inr.inr.inl => exact absurd hw (hx a w)
  all_goals rw [e] at hp; cases hp
  · exact byteAt_afterPortRead s r b
  · exact byteAt_afterPortWrite s r w b
  · exact byteAt_afterMemRead s a b

/-! ### A step -/

/-- The computation after the access leaves memory alone. -/
theorem Landed.byteAt (h : Landed u t) (b : Nat) : t.byteAt b = u.byteAt b := byteAt_congr h.mem h.params h.resets b

theorem Stepped.memWrite {a : Nat} (h : Stepped s t (some (.memWrite a v))) :
    inFb s.params a = true ∧ t.byteAt a = v ∧ ∀ b, b ≠ a → t.byteAt b = s.byteAt b := by
  rcases h with ⟨_, w, u, ⟨⟩, hp, hl⟩ | ⟨noAccess | ⟨_, c, ⟨⟩, hp⟩, _⟩
  · obtain ⟨inside, rfl⟩ := perform_memWrite hp
    refine ⟨inside, ?_, fun b hb => ?_⟩
    · rw [hl.byteAt, byteAt_afterMemWrite_same]
    · rw [hl.byteAt, byteAt_afterMemWrite_other s v hb]
  · cases noAccess
  · exact absurd hp (perform_memWrite_ne_raised s a v c)

theorem Stepped.byteAt {x : Option Access} (h : Stepped s t x) (hx : ∀ a v, x ≠ some (.memWrite a v)) (b : Nat) :
    t.byteAt b = s.byteAt b := by
  rcases h with ⟨y, v, u, rfl, hp, hl⟩ | ⟨_, c, rfl⟩
  · rw [hl.byteAt]
    exact perform_byteAt hp (fun a w hy => hx a w (by rw [hy])) b
  · exact byteAt_congr rfl rfl rfl b

/-- A step stores nothing exactly where its access is no write. -/
theorem storedAddr_eq_none_iff {i : Instr} : storedAddr i s = none ↔ ∀ a v, nextAccess i s ≠ some (.memWrite a v) := by
  unfold storedAddr
  rcases nextAccess i s with _ | ⟨_ | _ | _ | _⟩ <;> simp

/-- Settles O8: the access the step performs records its event; fault entry without an access records none. -/
theorem oneAccessPerStep : Obligations.OneAccessPerStep := by
  intro i s t run
  rcases exec_next run with ⟨x, v, u, hx, hp, hl⟩ | ⟨noAccess, c, rfl⟩
  · obtain ⟨admitted, event⟩ := perform_event hp
    exact .inl ⟨x, hx, admitted, hl.history.trans event⟩
  · refine .inr ⟨noAccess.imp_right ?_, rfl, rfl⟩
    rintro ⟨x, c, hx, hp⟩
    obtain ⟨a, rfl, refused⟩ := perform_raised hp
    exact ⟨a, hx, refused⟩

/-- Settles O39, by the access the step performs: the computation after it leaves memory alone. -/
theorem stepsStoreAtMostOneByte : Obligations.StepsStoreAtMostOneByte := by
  intro i s t run
  have stepped := exec_next run
  refine ⟨fun a v hx => ?_, fun hs => stepped.byteAt (storedAddr_eq_none_iff.1 hs)⟩
  rw [hx] at stepped
  exact stepped.memWrite

end Sys2Proof.Machine
end

section
/-! The ENGINE's writes stay in FB (20_memory R65): a step makes the access it names, and a write it names goes to a
cell of the screen. -/

namespace Sys2Proof.Machine

variable {s t u : State} {i : Instr} {x : Access} {v : Byte}

/-! ### A step makes the access it names -/

section Body
variable {P R : Type} {access : P → State → Option Access} {after : P → Byte → State → State × Flow P R}
  {landing : State × Flow P R → State} {p : P}

theorem runAccess_got (hx : access p s = some x) (hp : s.perform x = .got v u) :
    ∃ t, runAccess access after landing p s = .next t :=
  ⟨landing (after p v u), by simp only [runAccess, hx, hp]⟩

theorem runStart_got {r : State × Flow P R} (hr : r.1 = s) (hx : firstAccess access r = some x)
    (hp : s.perform x = .got v u) : ∃ t, runStart access after landing r = .next t := by
  obtain ⟨w, f⟩ := r
  cases hr
  cases f with
  | goto p => exact runAccess_got hx hp
  | ended y => cases hx
  | raised c => cases hx

end Body

/-- PrintBody's start on a text in memory changes no state. -/
theorem printStart_state (s : State) : (printStart (ptrText s) s).1 = s := by
  rcases printStart_mem s with ⟨e, _⟩ | ⟨c, e, _⟩ <;> rw [e]

/-- Where the access a command's SEQ names can be performed, the command has a next step (20_memory R60). -/
theorem exec_of_perform (hx : nextAccess i s = some x) (hp : s.perform x = .got v u) : ∃ t, exec i s = .next t := by
  cases i with
  | init =>
    simp only [nextAccess, initNext] at hx
    split at hx <;> simp only [exec, execInit, *]
    · exact runAccess_got hx hp
    · exact runAccess_got hx hp
    · cases hx
  | txrdy =>
    simp only [nextAccess, txrdyNext] at hx
    split at hx <;> simp only [exec, execTxrdy, *]
    · exact runAccess_got hx hp
    · cases hx
  | sendline =>
    simp only [nextAccess, sendlineNext] at hx
    split at hx <;> simp only [exec, execSendline, *]
    · exact runStart_got (sendLoop_state _ _ s) hx hp
    · exact runAccess_got hx hp
    · cases hx
  | clear =>
    simp only [nextAccess, clearNext] at hx
    split at hx <;> simp only [exec, execClear, *]
    · exact runAccess_got hx hp
    · exact runAccess_got hx hp
    · cases hx
  | print =>
    simp only [nextAccess, printNext] at hx
    split at hx <;> simp only [exec, execPrint, *]
    · exact runStart_got (printStart_state s) hx hp
    · exact runAccess_got hx hp
    · cases hx
  | printat col row =>
    simp only [nextAccess, printatNext] at hx
    split at hx <;> simp only [exec, execPrintat, *]
    · exact runStart_got (printAtStart_state _ _ _ s) hx hp
    · exact runAccess_got hx hp
    · cases hx
  | panic =>
    simp only [nextAccess, panicNext] at hx
    split at hx <;> simp only [exec, execPanic, *]
    case h_4 => cases hx
    all_goals exact runAccess_got hx hp
  | boot =>
    simp only [nextAccess, bootNext] at hx
    split at hx <;> simp only [exec, execBoot, *]
    case h_8 => cases hx
    all_goals exact runAccess_got hx hp

/-! ### A write goes to a cell of the screen -/

variable {a : Nat}

theorem textAccess_ne_memWrite (src : TextSrc) (j : Nat) : textAccess src j ≠ some (.memWrite a v) := by
  cases src <;> exact nofun

theorem initAccess_ne_memWrite (p : InitPt) : initAccess p s ≠ some (.memWrite a v) := by
  cases p <;> exact nofun

theorem sendAccess_ne_memWrite (src : TextSrc) (p : SendPt) : sendAccess src p s ≠ some (.memWrite a v) := by
  cases p with
  | read j => exact textAccess_ne_memWrite src j
  | _ => exact nofun

theorem fillAccess_inFb {ch attr : Byte} {p : FillPt} (hp : p.onScreen s.params)
    (hx : fillAccess ch attr p s = some (.memWrite a v)) : inFb s.params a = true := by
  cases p with
  | char c => cases hx; exact inFb_cellAddr s.params hp
  | attr c => cases hx; exact inFb_cellAddr_succ s.params hp

theorem printAccess_inFb {src : TextSrc} {p : PrintPt} (hp : p.onScreen s.params)
    (hx : printAccess src p s = some (.memWrite a v)) : inFb s.params a = true := by
  cases p with
  | read j col row => exact absurd hx (textAccess_ne_memWrite src j)
  | char j col row b => cases hx; exact inFb_cellAddr s.params (cellIndex_lt hp.1 hp.2)
  | attr j col row => cases hx; exact inFb_cellAddr_succ s.params (cellIndex_lt hp.1 hp.2)

theorem printAtAccess_inFb {src : TextSrc} {p : PrintAtPt} (hp : p.onScreen s.params)
    (hx : printAtAccess src p s = some (.memWrite a v)) : inFb s.params a = true := by
  cases p with
  | read c j => exact absurd hx (textAccess_ne_memWrite src j)
  | char c j b => cases hx; exact inFb_cellAddr s.params hp

/-- The characters of PANIC_MSG have their cells on the screen (log 17, 42_boot R174). -/
theorem PrintAtPt.onScreen_of_inPanicMsg {p : PrintAtPt} {prm : Params} (hl : layoutFits prm) (hp : p.inPanicMsg prm) :
    p.onScreen prm := by
  obtain ⟨_, _, _, _, _, fits⟩ := hl
  cases p with
  | read c j => exact trivial
  | char c j b =>
    obtain ⟨rfl, hj⟩ := hp
    change panicCell prm + j < cells prm
    omega

/-- A text command starts with a read of its text. -/
theorem printStart_ne_memWrite (s : State) :
    firstAccess (printAccess (ptrText s)) (printStart (ptrText s) s) ≠ some (.memWrite a v) := by
  rcases printStart_mem s with ⟨e, _⟩ | ⟨c, e, _⟩ <;> rw [e] <;> exact nofun

theorem printAtStart_ne_memWrite (col row : Nat) (s : State) :
    firstAccess (printAtAccess (ptrText s)) (printAtStart col row (ptrText s) s) ≠ some (.memWrite a v) := by
  rcases printAtStart_mem col row s with ⟨e, _⟩ | ⟨c, e⟩ <;> rw [e] <;> exact nofun

/-- Under the invariant a write a command names is inside FB (20_memory R65). -/
theorem Inv.nextAccess_inFb (h : Inv s) (hx : nextAccess i s = some (.memWrite a v)) : inFb s.params a = true := by
  cases i with
  | init =>
    simp only [nextAccess, initNext] at hx
    split at hx
    case h_3 => cases hx
    all_goals exact absurd hx (initAccess_ne_memWrite _)
  | txrdy =>
    simp only [nextAccess, txrdyNext] at hx
    split at hx <;> cases hx
  | sendline =>
    simp only [nextAccess, sendlineNext] at hx
    split at hx
    · obtain ⟨p, e, _⟩ := sendLoop_poll (lenCount s) 0 s
      rw [e] at hx
      exact absurd hx (sendAccess_ne_memWrite _ p)
    · exact absurd hx (sendAccess_ne_memWrite _ _)
    · cases hx
  | clear =>
    simp only [nextAccess, clearNext] at hx
    split at hx
    · exact fillAccess_inFb (p := .char 0) h.cells_pos hx
    · rename_i hq; exact fillAccess_inFb (h.fits hq).2 hx
    · cases hx
  | print =>
    simp only [nextAccess, printNext] at hx
    split at hx
    · exact absurd hx (printStart_ne_memWrite s)
    · rename_i hq; exact printAccess_inFb (h.fits hq).2 hx
    · cases hx
  | printat col row =>
    simp only [nextAccess, printatNext] at hx
    split at hx
    · exact absurd hx (printAtStart_ne_memWrite _ _ s)
    · rename_i hq; exact printAtAccess_inFb (h.fits hq).2 hx
    · cases hx
  | panic =>
    simp only [nextAccess, panicNext] at hx
    split at hx
    · exact fillAccess_inFb (p := .char 0) h.cells_pos hx
    · rename_i hq; exact fillAccess_inFb (h.fits hq).2 hx
    · rename_i hq; exact printAtAccess_inFb (h.fits hq).2 hx
    · cases hx
  | boot =>
    simp only [nextAccess, bootNext] at hx
    split at hx
    · exact fillAccess_inFb (p := .char 0) h.cells_pos hx
    · rename_i hq; exact fillAccess_inFb (h.fits hq).2 hx
    · exact absurd hx (initAccess_ne_memWrite _)
    · rename_i hq; exact fillAccess_inFb (h.fits hq).2 hx
    · rename_i hq; exact printAtAccess_inFb (PrintAtPt.onScreen_of_inPanicMsg h.params.2 (h.fits hq).2) hx
    · rename_i hq; exact printAccess_inFb (h.fits hq).2.1 hx
    · exact absurd hx (sendAccess_ne_memWrite _ _)
    · cases hx

/-- FB is the two bytes of each cell: an address in it is CELL(c) or CELL(c)+1 (10_state R31). -/
theorem exists_cell_of_inFb {p : Params} (h : inFb p a = true) :
    ∃ c, c < cells p ∧ (a = p.vgaBase + 2 * c ∨ a = p.vgaBase + 2 * c + 1) := by
  rw [inFb_iff] at h
  exact ⟨(a - p.vgaBase) / 2, by omega⟩

/-- Settles O54: the write named is inside FB, so it is performed, and the step leaves the byte there. -/
theorem writesStayInTheFramebuffer : Obligations.WritesStayInTheFramebuffer := by
  intro s i a v inv _ _ hx
  have inside := inv.nextAccess_inFb hx
  obtain ⟨t, run⟩ := exec_of_perform hx (perform_memWrite_of_inFb inside)
  obtain ⟨stored, _⟩ := stepsStoreAtMostOneByte i s t run
  obtain ⟨_, byte, _⟩ := stored a v hx
  exact ⟨exists_cell_of_inFb inside, t, run, byte⟩

end Sys2Proof.Machine
end

section
/-! Where a text byte may not be read: each point at which SENDLINE, PRINT, PRINTAT and PANIC come to the byte, and the
state in which the fault leaves it (20_memory R60, R64; 60_exceptions R182, R185). -/

namespace Sys2Proof.Machine

variable {s : State} {c : FaultCode}

/-! ### The body a command's SEQ stands in -/

theorem exec_print_start (hq : s.seq = .empty) : exec .print s =
    runStart (printAccess (ptrText s)) (printAfter (ptrText s)) printLand (printStart (ptrText s) s) := by
  simp only [exec, execPrint, hq]

theorem exec_print_at {p : PrintPt} (hq : s.seq = .print p) : exec .print s =
    runAccess (printAccess (ptrText s)) (printAfter (ptrText s)) printLand p s := by
  simp only [exec, execPrint, hq]

theorem exec_printat_start (col row : Byte) (hq : s.seq = .empty) : exec (.printat col row) s =
    runStart (printAtAccess (ptrText s)) (printAtAfter (ptrText s)) printatLand
      (printAtStart col.toNat row.toNat (ptrText s) s) := by
  simp only [exec, execPrintat, hq]

theorem exec_printat_at (col row : Byte) {p : PrintAtPt} (hq : s.seq = .printat p) : exec (.printat col row) s =
    runAccess (printAtAccess (ptrText s)) (printAtAfter (ptrText s)) printatLand p s := by
  simp only [exec, execPrintat, hq]

theorem exec_panic_fill {p : FillPt} (hq : s.seq = .panicFill p) : exec .panic s =
    runAccess (fillAccess s.params.panicFillChar s.params.panicAttr) fillAfter panicFillLand p s := by
  simp only [exec, execPanic, hq]

theorem exec_panic_msg {p : PrintAtPt} (hq : s.seq = .panicMsg p) : exec .panic s =
    runAccess (printAtAccess (ptrText s)) (printAtAfter (ptrText s)) panicMsgLand p s := by
  simp only [exec, execPanic, hq]

/-- SENDLINE comes to the poll of byte i, from the poll before or from its start (40_uart R102, R105). -/
theorem exec_sendline_poll {i : Nat} (hi : i < lenCount s)
    (hq : s.seq = .sendline (.poll i) ∨ (s.seq = .empty ∧ i = 0)) : exec .sendline s =
      runAccess (sendAccess (ptrText s)) (sendAfter (ptrText s) (lenCount s)) sendlineLand (.poll i) s := by
  rcases hq with hq | ⟨hq, rfl⟩ <;> simp only [exec, execSendline, hq]
  rw [sendLoop_lt hi, runStart_goto]

/-! ### The fault at the text byte -/

/-- A character of a PRINTAT or PANIC message before a byte that may not be read: the write, then the fault. -/
theorem runAccess_printAtChar_raised {place : PrintAtPt → Seq} {follow : Unit → State → State} {i k : Nat} {b : Byte}
    (hk : k < cells s.params) (hr : readFault s.params (s.ptr.toNat + (i + 1)) = some c) :
    runAccess (printAtAccess (ptrText s)) (printAtAfter (ptrText s)) (land place follow) (.char k i b) s =
      .next ((s.afterMemWrite (s.params.vgaBase + 2 * k) b).enterFault c) := by
  rw [runAccess_memWrite rfl (inFb_cellAddr s.params hk), printAtAfter, ptrText,
    printAtText_raised (s := s.afterMemWrite _ _) hr, land_raised]
  rfl

/-- After PANIC's fill, a message whose first byte may not be read (41_console R138). -/
theorem panicFillLand_ended_raised (hcol : s.params.panicCol < s.params.cols) (hrow : s.params.panicRow < s.params.rows)
    (hr : readFault s.params s.ptr.toNat = some c) : panicFillLand (s, .ended ()) = s.enterFault c := by
  rw [panicFillLand, land_ended, printAtStart_ok hcol hrow, ptrText, printAtText_raised hr]
  rfl

/-- Settles O15, point by point: the access before the text byte, and the fault that `TextByte` raises after it. -/
theorem textFaultsAtTheTextByte : Obligations.TextFaultsAtTheTextByte := by
  intro s c a p refused
  have hr : readFault s.params a = some c := by
    rcases refused with ⟨wraps, rfl⟩ | ⟨inMem, outsideFb, unreadable, rfl⟩
    · exact readFault_addrWrap wraps
    · exact readFault_srcUnmapped inMem outsideFb unreadable
  refine ⟨?print, ?printat, ?panicFill, ?panicMsg, ?sendline, ?printChar, ?printatChar⟩
  case print =>
    rintro rfl hq
    rw [exec_print_start hq, printStart, ptrText, printText_raised hr]
    rfl
  case printat =>
    rintro col row rfl hq hcol hrow
    rw [exec_printat_start col row hq, printAtStart_ok hcol hrow, ptrText, printAtText_raised hr]
    rfl
  case panicFill =>
    rintro k rfl hk hcol hrow hq
    rw [exec_panic_fill hq, runAccess_memWrite rfl (inFb_cellAddr_succ s.params (Nat.le_of_eq hk)),
      fillAfter_attr_last (s := s.afterMemWrite _ _) (Nat.le_of_eq hk.symm),
      panicFillLand_ended_raised (s := s.afterMemWrite _ _) hcol hrow hr]
    rfl
  case panicMsg =>
    rintro i k b rfl hk hq
    rw [exec_panic_msg hq]
    exact runAccess_printAtChar_raised hk hr
  case sendline =>
    rintro i rfl hi hq ready
    rw [exec_sendline_poll hi hq, runAccess_portRead rfl,
      sendAfter_poll_ready (s := s.afterPortRead _) (threSet_true ready), ptrText, sendText_raised (s := s.afterPortRead _) hr]
    rfl
  case printChar =>
    rintro i col row rfl hcol hrow hq
    rw [exec_print_at hq, runAccess_memWrite rfl (inFb_cellAddr_succ s.params (cellIndex_lt hcol hrow)), printAfter,
      State.afterMemWrite_params, advance_eq hcol hrow, ptrText,
      printText_raised (s := (s.afterMemWrite _ _).setCursor _ _) hr]
    rfl
  case printatChar =>
    rintro col row i k b rfl hk hq
    rw [exec_printat_at col row hq]
    exact runAccess_printAtChar_raised hk hr

end Sys2Proof.Machine
end

section
/-! Decode, branch by branch, and the fields of a word as numbers (30_encoding R81, R83); from these, which word is
whose: a word decodes to a command exactly when the command is well formed and the word is its own. -/

namespace Sys2Proof

variable {w : Word} {i : Instr}

/-! ### Fields as numbers -/

theorem opField_eq_iff {n : Nat} (hn : n < 256) : opField w = BitVec.ofNat 8 n ↔ w.toNat % 256 = n := by
  rw [← BitVec.toNat_inj, opField_toNat, BitVec.toNat_ofNat, Nat.mod_eq_of_lt hn]

theorem colField_eq_zero_iff : colField w = 0#7 ↔ w.toNat / 256 % 128 = 0 := by
  rw [← BitVec.toNat_inj, colField_toNat]; rfl

theorem rowField_eq_zero_iff : rowField w = 0#5 ↔ w.toNat / 32768 % 32 = 0 := by
  rw [← BitVec.toNat_inj, rowField_toNat]; rfl

theorem rsvField_eq_zero_iff : rsvField w = 0#12 ↔ w.toNat / 1048576 = 0 := by
  rw [← BitVec.toNat_inj, rsvField_toNat]; rfl

/-- The four fields are all the bits of a word (30_encoding R81). -/
theorem word_toNat_eq_fields (w : Word) : w.toNat =
    (opField w).toNat + (colField w).toNat * 256 + (rowField w).toNat * 32768 + (rsvField w).toNat * 1048576 := by
  rw [opField_toNat, colField_toNat, rowField_toNat, rsvField_toNat]
  omega

/-! ### The branches of Decode (30_encoding R83) -/

theorem decode_reserved (hr : rsvField w ≠ 0#12) : decode w = .illegal .reservedBits := by
  simp [decode, hr]

theorem decode_operandBits (hr : rsvField w = 0#12) (ho : opField w ≠ 0x06#8)
    (h : colField w ≠ 0#7 ∨ rowField w ≠ 0#5) : decode w = .illegal .operandBits := by
  simp only [decode, hr, ho, h, ne_eq, not_true_eq_false, if_false, if_true]

/-- Decode answers a command in two branches only: PRINTAT's, and that of OP alone. -/
theorem decode_command_cases (h : decode w = .command i) : rsvField w = 0#12 ∧
    ((opField w = 0x06#8 ∧ i = .printat ((colField w).setWidth 8) ((rowField w).setWidth 8)) ∨
     (colField w = 0#7 ∧ rowField w = 0#5 ∧ decodePlain (opField w) = .command i)) := by
  by_cases hr : rsvField w = 0#12
  case neg => rw [decode_reserved hr] at h; cases h
  refine ⟨hr, ?_⟩
  by_cases ho : opField w = 0x06#8
  case pos => rw [decode_printat hr ho] at h; cases h; exact .inl ⟨ho, rfl⟩
  by_cases hz : colField w ≠ 0#7 ∨ rowField w ≠ 0#5
  case pos => rw [decode_operandBits hr ho hz] at h; cases h
  obtain ⟨hc, hw⟩ : colField w = 0#7 ∧ rowField w = 0#5 := by simpa using hz
  exact .inr ⟨hc, hw, decode_plain hr hc hw ho ▸ h⟩

/-- A command that OP alone decides has this OP, no operands to fit, and the OP for its word (30_encoding R82). -/
theorem decodePlain_command {op : BitVec 8} (h : decodePlain op = .command i) :
    opcodeOf i = op ∧ i.wellFormed = true ∧ encode i = op.setWidth 32 := by
  unfold decodePlain at h
  repeat' split at h
  all_goals cases h
  all_goals subst op; exact ⟨rfl, rfl, rfl⟩

theorem opcodeOf_toNat_range (i : Instr) : 1 ≤ (opcodeOf i).toNat ∧ (opcodeOf i).toNat ≤ 8 := by
  cases i <;> simp [opcodeOf]

/-- OP = 0x00 and OP in 0x09..0xFF are no command's (30_encoding R85). -/
theorem decodePlain_illegal {op : BitVec 8} (h : op.toNat = 0 ∨ 9 ≤ op.toNat) :
    ∃ why, decodePlain op = .illegal why := by
  cases hd : decodePlain op with
  | illegal why => exact ⟨why, rfl⟩
  | command i =>
    obtain ⟨rfl, _⟩ := decodePlain_command hd
    have := opcodeOf_toNat_range i
    omega

/-! ### The word of a command -/

theorem wellFormed_printat {col row : Byte} :
    (Instr.printat col row).wellFormed = true ↔ col.toNat < 128 ∧ row.toNat < 32 := by
  simp [Instr.wellFormed]

/-- The two operands of a decoded PRINTAT fit their fields (30_encoding R84). -/
theorem wellFormed_printat_fields (w : Word) :
    (Instr.printat ((colField w).setWidth 8) ((rowField w).setWidth 8)).wellFormed = true := by
  rw [wellFormed_printat, BitVec.toNat_setWidth_of_le (by decide), BitVec.toNat_setWidth_of_le (by decide)]
  exact ⟨(colField w).isLt, (rowField w).isLt⟩

/-- A word with RSV = 0 and OP = 0x06 is the word of the PRINTAT its COL and ROW spell. -/
theorem encode_printat_fields (hr : rsvField w = 0#12) (ho : opField w = 0x06#8) :
    encode (.printat ((colField w).setWidth 8) ((rowField w).setWidth 8)) = w := by
  obtain ⟨fitsCol, fitsRow⟩ := wellFormed_printat.1 (wellFormed_printat_fields w)
  apply BitVec.eq_of_toNat_eq
  rw [encode_printat_toNat fitsCol fitsRow, word_toNat_eq_fields w, hr, ho,
    BitVec.toNat_setWidth_of_le (by decide), BitVec.toNat_setWidth_of_le (by decide)]
  rfl

/-- A word whose fields but OP are 0 is its OP. -/
theorem opField_setWidth_eq_word (hr : rsvField w = 0#12) (hc : colField w = 0#7) (hw : rowField w = 0#5) :
    (opField w).setWidth 32 = w := by
  apply BitVec.eq_of_toNat_eq
  rw [word_toNat_eq_fields w, hr, hc, hw, BitVec.toNat_setWidth_of_le (by decide)]
  rfl

/-- Settles O4, by the two branches in which Decode answers a command. -/
theorem encodeOfDecode : Obligations.EncodeOfDecode := by
  intro w i h
  obtain ⟨hr, ⟨ho, rfl⟩ | ⟨hc, hw, hd⟩⟩ := decode_command_cases h
  · exact ⟨encode_printat_fields hr ho, wellFormed_printat_fields w⟩
  · obtain ⟨_, fits, word⟩ := decodePlain_command hd
    exact ⟨word.trans (opField_setWidth_eq_word hr hc hw), fits⟩

/-- A PRINTAT whose operands fit decodes from its word: each operand stands in its own field, whole. -/
theorem decode_encode_printat {col row : Byte} (hc : col.toNat < 128) (hr : row.toNat < 32) :
    decode (encode (.printat col row)) = .command (.printat col row) := by
  have word := encode_printat_toNat hc hr
  have rsv : rsvField (encode (.printat col row)) = 0#12 := rsvField_eq_zero_iff.2 (by omega)
  have op : opField (encode (.printat col row)) = 0x06#8 := (opField_eq_iff (by decide)).2 (by omega)
  have colRead : (colField (encode (.printat col row))).setWidth 8 = col := by
    apply BitVec.eq_of_toNat_eq
    rw [BitVec.toNat_setWidth_of_le (by decide), colField_toNat]
    omega
  have rowRead : (rowField (encode (.printat col row))).setWidth 8 = row := by
    apply BitVec.eq_of_toNat_eq
    rw [BitVec.toNat_setWidth_of_le (by decide), rowField_toNat]
    omega
  rw [decode_printat rsv op, colRead, rowRead]

/-- Settles O3: PRINTAT by its fields, at every operand that fits them; each other command has one word. -/
theorem decodeOfEncode : Obligations.DecodeOfEncode := by
  intro i fits
  cases i with
  | printat col row =>
    obtain ⟨hc, hr⟩ := wellFormed_printat.1 fits
    exact decode_encode_printat hc hr
  | _ => decide

/-- The only word of a well-formed command is its encoding (30_encoding R83). -/
theorem decode_eq_command_iff (fits : i.wellFormed = true) : decode w = .command i ↔ w = encode i := by
  constructor
  · intro h
    exact (encodeOfDecode w i h).1.symm
  · rintro rfl
    exact decodeOfEncode i fits

/-- Settles O1: the words are closed, so Decode computes. -/
theorem tableWordsDecode : Obligations.TableWordsDecode := by
  unfold Obligations.TableWordsDecode
  decide

/-! ### The match/mask pairs -/

/-- PRINTAT's mask keeps OP. -/
theorem opField_and_printatMask (w : Word) : opField (w &&& 0xFFF000FF#32) = opField w := by
  rw [opField, BitVec.extractLsb'_and]
  exact BitVec.and_allOnes

/-- PRINTAT's mask keeps RSV. -/
theorem rsvField_and_printatMask (w : Word) : rsvField (w &&& 0xFFF000FF#32) = rsvField w := by
  rw [rsvField, BitVec.extractLsb'_and]
  exact BitVec.and_allOnes

/-- A word is a PRINTAT's exactly when it matches the row's pair (30_encoding R83). -/
theorem decode_printat_iff_match :
    (∃ c r, decode w = .command (.printat c r)) ↔ w &&& 0xFFF000FF#32 = 0x00000006#32 := by
  constructor
  · rintro ⟨c, r, h⟩
    obtain ⟨rfl, fits⟩ := encodeOfDecode w _ h
    exact Laws.TableRow.printat c r fits
  · intro h
    have op : opField w = 0x06#8 := by rw [← opField_and_printatMask, h]; decide
    have rsv : rsvField w = 0#12 := by rw [← rsvField_and_printatMask, h]; decide
    exact ⟨_, _, decode_printat rsv op⟩

end Sys2Proof
end

section
/-! What the ENGINE does with the words Decode maps to Illegal, and with a PRINTAT off the screen: a fault in the first
step, without an access (30_encoding R83, R85; 41_console R137). -/

namespace Sys2Proof.Machine

/-- While BUSY with no host move left, a step on an illegal word is the fault's entry alone (60_exceptions R183). -/
theorem step_illegal {s : State} {why : Illegal} (hb : s.state = .busy) (hh : s.host = [])
    (hd : decode s.cmd = .illegal why) : step s = .next (s.enterFault .illegalCmd) := by
  simp [step, systemStep, hh, engineStep, hb, engineBusy, hd]

/-- Settles O2, clause by clause: the branches of Decode by the fields' numbers, the fault, and the pairs. -/
theorem decodeIsTotalByFields : Obligations.DecodeIsTotalByFields := by
  intro w op col row rsv
  refine ⟨?reserved, ?printat, ?operandBits, ?plain, ?fault, decode_printat_iff_match, ?words⟩
  case reserved => exact fun hr => ⟨_, decode_reserved (mt rsvField_eq_zero_iff.1 hr)⟩
  case printat =>
    intro hr ho
    rw [decode_printat (rsvField_eq_zero_iff.2 hr) ((opField_eq_iff (by decide)).2 ho), ← BitVec.ofNat_toNat,
      ← BitVec.ofNat_toNat, colField_toNat, rowField_toNat]
  case operandBits =>
    intro hr ho operands
    exact ⟨_, decode_operandBits (rsvField_eq_zero_iff.2 hr) (mt (opField_eq_iff (by decide)).1 ho)
      (operands.imp (mt colField_eq_zero_iff.1) (mt rowField_eq_zero_iff.1))⟩
  case plain =>
    intro hr hc hw
    have byOp : op ≠ 0x06 → decode w = decodePlain (opField w) := fun ho =>
      decode_plain (rsvField_eq_zero_iff.2 hr) (colField_eq_zero_iff.2 hc) (rowField_eq_zero_iff.2 hw)
        (mt (opField_eq_iff (by decide)).1 ho)
    have command {n : Nat} (hn : n < 256) (h6 : n ≠ 0x06) (ho : op = n) : decode w = decodePlain (BitVec.ofNat 8 n) :=
      (opField_eq_iff hn).2 ho ▸ byOp (ho ▸ h6)
    refine ⟨command (by decide) (by decide), command (by decide) (by decide), command (by decide) (by decide),
      command (by decide) (by decide), command (by decide) (by decide), command (by decide) (by decide),
      command (by decide) (by decide), fun ho => ?_⟩
    rw [byOp (by omega)]
    exact decodePlain_illegal (opField_toNat w ▸ ho)
  case fault =>
    rintro s host busy rfl ⟨why, illegal⟩
    exact step_illegal busy host illegal
  case words =>
    exact ⟨decode_eq_command_iff rfl, decode_eq_command_iff rfl, decode_eq_command_iff rfl, decode_eq_command_iff rfl,
      decode_eq_command_iff rfl, decode_eq_command_iff rfl, decode_eq_command_iff rfl⟩

/-- Settles O14: the word is the PRINTAT's encoding, and PrintAtBody's start raises the fault. -/
theorem printatCoordFaultsWhenRun : Obligations.PrintatCoordFaultsWhenRun := by
  constructor
  · intro col row hc hr
    exact decode_encode_printat hc hr
  · intro col row s hq bad
    rw [exec_printat_start col row hq, printAtStart_bad bad]
    rfl

end Sys2Proof.Machine
end

section
/-! INIT and TXRDY, one access a step, and the self-test of a whole INIT (40_uart R100, R101, R103, R107). -/

namespace Sys2Proof.Machine

variable {s u t : State}

/-! ### A command under way -/

/-- Command `i` runs and the host makes no further move: each step is a step of `i`. -/
structure Underway (i : Instr) (s : State) : Prop where
  busy : s.state = .busy
  host : s.host = []
  word : decode s.cmd = .command i

theorem Underway.step {i : Instr} (h : Underway i s) : step s = exec i s := step_busy h.busy h.host h.word

theorem Underway.portRead {i : Instr} (h : Underway i s) (r : UartReg) (q : Seq) :
    Underway i ((s.afterPortRead r).setSeq q) := ⟨h.busy, h.host, h.word⟩

theorem Underway.portWrite {i : Instr} (h : Underway i s) (r : UartReg) (v : Byte) (q : Seq) :
    Underway i ((s.afterPortWrite r v).setSeq q) := ⟨h.busy, h.host, h.word⟩

theorem Underway.memRead {i : Instr} (h : Underway i s) (a : Nat) (q : Seq) :
    Underway i ((s.afterMemRead a).setSeq q) := ⟨h.busy, h.host, h.word⟩

theorem Started.underway {i : Instr} (h : Started s i) : Underway i s := by
  obtain ⟨busy, -, host, word⟩ := h
  exact ⟨busy, host, word⟩

/-! ### INIT -/

/-- InitBody's next access is that of point `p`. -/
def InitAt (p : InitPt) (s : State) : Prop := s.seq = .init p ∨ s.seq = .empty ∧ p = .ier

theorem exec_init_at {p : InitPt} (h : InitAt p s) : exec .init s = runAccess initAccess initAfter initLand p s := by
  rcases h with hq | ⟨hq, rfl⟩ <;> simp only [exec, execInit, hq]

/-- A write of InitBody that is not its last: the write is made and SEQ moves on. -/
theorem exec_init_write {p q : InitPt} {r : UartReg} {v : Byte} (h : InitAt p s)
    (access : initAccess p s = some (.portWrite r v)) (next : ∀ w, initAfter p 0x00#8 w = (w, .goto q)) :
    exec .init s = .next ((s.afterPortWrite r v).setSeq (.init q)) := by
  rw [exec_init_at h, runAccess_portWrite access, next]
  rfl

theorem exec_init_rbr_match (hq : s.seq = .init .rbr) (echo : s.portAnswer .data = s.params.testByte) :
    exec .init s = .next ((s.afterPortRead .data).setSeq (.init .mcrFinal)) := by
  rw [exec_init_at (.inl hq), runAccess_portRead rfl, initAfter_rbr_match (s := s.afterPortRead .data) echo]
  rfl

theorem exec_init_rbr_mismatch (hq : s.seq = .init .rbr) (noEcho : s.portAnswer .data ≠ s.params.testByte) :
    exec .init s = .next ((s.afterPortRead .data).setInitOk false).finish := by
  rw [exec_init_at (.inl hq), runAccess_portRead rfl, initAfter_rbr_mismatch (s := s.afterPortRead .data) noEcho]
  rfl

theorem exec_init_mcrFinal (hq : s.seq = .init .mcrFinal) : exec .init s =
    .next ((s.afterPortWrite .modemControl s.params.mcrFinal).setInitOk true).finish := by
  rw [exec_init_at (.inl hq), runAccess_portWrite rfl]
  rfl

/-- Settles O18, access by access. -/
theorem initMakesItsAccessesInOrder : Obligations.InitMakesItsAccessesInOrder := by
  intro s p
  refine ⟨?start, ?_, ?_, ?_, ?_, ?_, ?_, ?_, ?_, exec_init_rbr_match, exec_init_rbr_mismatch, exec_init_mcrFinal⟩
  case start => exact fun hq => exec_init_write (hq.symm.imp_right fun hq => ⟨hq, rfl⟩) rfl fun _ => rfl
  all_goals exact fun hq => exec_init_write (.inl hq) rfl fun _ => rfl

/-! ### The self-test -/

/-- INIT came from `s` to point `p` in `n` steps, which wrote the events `es` (newest first) and nothing to memory, and
left it in `u`. -/
structure InitRun (s : State) (n : Nat) (p : InitPt) (es : List Event) (u : State) : Prop where
  run : stepN n s = .next u
  underway : Underway .init u
  seq : InitAt p u
  params : u.params = s.params
  mem : u.mem = s.mem
  history : u.history = es ++ s.history

theorem Started.initRun (h : Started s .init) : InitRun s 0 .ier [] s := by
  have underway := h.underway
  obtain ⟨-, hq, -⟩ := h
  exact ⟨rfl, underway, .inr ⟨hq, rfl⟩, rfl, rfl, rfl⟩

/-- The parameters decide what InitBody accesses (40_uart R103). -/
theorem initAccess_congr (p : InitPt) (h : u.params = s.params) : initAccess p u = initAccess p s := by
  cases p <;> simp only [initAccess, h]

/-- One more write of InitBody. -/
theorem InitRun.write {n : Nat} {p q : InitPt} {r : UartReg} {v : Byte} {es : List Event} (h : InitRun s n p es u)
    (access : initAccess p s = some (.portWrite r v)) (next : ∀ w, initAfter p 0x00#8 w = (w, .goto q)) :
    InitRun s (n + 1) q (.pw (uartPort s.params r) v :: es) ((u.afterPortWrite r v).setSeq (.init q)) where
  run := by
    rw [stepN_add h.run, stepN_succ (h.underway.step.trans
      (exec_init_write h.seq ((initAccess_congr p h.params).trans access) next))]
    rfl
  underway := h.underway.portWrite r v _
  seq := .inl rfl
  params := h.params
  mem := h.mem
  history := by simp [h.params, h.history]

/-- Whatever the device, InitBody comes to its readback by the same nine writes (40_uart R107). -/
theorem Started.initRun_rbr (h : Started s .init) : ∃ u, InitRun s 9 .rbr (initWrites s.params).reverse u := by
  have ier := h.initRun.write rfl fun _ => rfl
  have dlab := ier.write rfl fun _ => rfl
  have dll := dlab.write rfl fun _ => rfl
  have dlm := dll.write rfl fun _ => rfl
  have lcr := dlm.write rfl fun _ => rfl
  have fcr := lcr.write rfl fun _ => rfl
  have mcrNormal := fcr.write rfl fun _ => rfl
  have mcrLoop := mcrNormal.write rfl fun _ => rfl
  have thr := mcrLoop.write rfl fun _ => rfl
  exact ⟨_, thr⟩

/-- Settles O19: the nine writes, then the readback decides. -/
theorem selfTestLaw : Obligations.SelfTestLaw := by
  intro s started
  obtain ⟨u, nine⟩ := started.initRun_rbr
  have hq : u.seq = .init .rbr := nine.seq.resolve_right (by simp)
  refine ⟨u, nine.run, nine.history, nine.mem, fun noEcho => ?failure, fun echo => ?success⟩
  case failure =>
    have last := nine.underway.step.trans (exec_init_rbr_mismatch hq (nine.params ▸ noEcho))
    refine ⟨_, (stepN_add nine.run 1).trans (stepN_succ last 0), rfl, rfl, nine.mem, ?_⟩
    simp [nine.params, uartPort, uartOffset]
  case success =>
    have read := nine.underway.step.trans (exec_init_rbr_match hq (nine.params ▸ echo))
    have last := (nine.underway.portRead .data (.init .mcrFinal)).step.trans (exec_init_mcrFinal rfl)
    have whole := (stepN_add nine.run 2).trans ((stepN_succ read 1).trans (stepN_succ last 0))
    refine ⟨_, whole, rfl, rfl, by simp [nine.mem], ?_⟩
    simp [echo, nine.params, uartPort, uartOffset]

/-! ### TXRDY -/

theorem exec_txrdy (hq : s.seq = .empty) : exec .txrdy s =
    .next ((s.afterPortRead .lineStatus).setTxrdy (threSet s.params (s.portAnswer .lineStatus))).finish := by
  simp only [exec, execTxrdy, hq]
  exact runAccess_portRead rfl

/-- With the THRE_MASK of 00_scope R6 bit 5 of LSR decides. -/
theorem threSet_bit5 {p : Params} (h : p.threMask = 0x20#8) (v : Byte) : threSet p v = v.getLsbD 5 := by
  have bit : v &&& 0x20#8 = if v.getLsbD 5 then 0x20#8 else 0x00#8 := BitVec.and_twoPow v 5
  rw [threSet, h, bit]
  cases v.getLsbD 5 <;> rfl

/-- Settles O20: the one read of LSR, and TXRDY from what it answers. -/
theorem txrdyReadsLsrOnce : Obligations.TxrdyReadsLsrOnce := by
  refine ⟨by decide, fun s hq => ⟨exec_txrdy hq, fun mask => ⟨_, exec_txrdy hq, threSet_bit5 mask _⟩⟩⟩

end Sys2Proof.Machine
end

section
/-! SENDLINE, one access a step, its wait for THRE, and a whole line (40_uart R102, R104, R105; 70_reset R214). -/

namespace Sys2Proof.Machine

variable {s : State} {i : Nat}

/-! ### Where SendBody stands -/

/-- The poll at the head of SendBody's loop: of byte i while i < n, then of CR (40_uart R105). -/
def sendHead (n i : Nat) : SendPt := if i < n then .poll i else .pollCr

theorem sendHead_lt {n : Nat} (h : i < n) : sendHead n i = .poll i := if_pos h

theorem sendHead_ge {n : Nat} (h : n ≤ i) : sendHead n i = .pollCr := if_neg (Nat.not_lt.2 h)

theorem sendLoop_eq (n i : Nat) (s : State) : sendLoop n i s = (s, .goto (sendHead n i)) := by
  unfold sendLoop sendHead
  split <;> rfl

/-- The polls of SendBody, each an iteration of WaitTx (40_uart R104). -/
inductive SendPt.IsPoll : SendPt → Prop
  | byte (i : Nat) : IsPoll (.poll i)
  | cr : IsPoll .pollCr
  | lf : IsPoll .pollLf

theorem sendAccess_poll {p : SendPt} (h : p.IsPoll) (src : TextSrc) (s : State) :
    sendAccess src p s = some (.portRead .lineStatus) := by
  cases h <;> rfl

/-- WaitTx reads LSR again (40_uart R104). -/
theorem sendAfter_wait {p : SendPt} (h : p.IsPoll) {v : Byte} (wait : threSet s.params v = false) (src : TextSrc)
    (n : Nat) : sendAfter src n p v s = (s, .goto p) := by
  cases h with
  | byte i => exact sendAfter_poll_wait wait
  | cr => exact sendAfter_pollCr_wait wait
  | lf => exact sendAfter_pollLf_wait wait

/-! ### One step of SENDLINE -/

/-- SendBody's next access is that of point `p`. -/
def SendAt (p : SendPt) (s : State) : Prop := s.seq = .sendline p ∨ s.seq = .empty ∧ p = sendHead (lenCount s) 0

theorem exec_sendline_at {p : SendPt} (h : SendAt p s) : exec .sendline s =
    runAccess (sendAccess (ptrText s)) (sendAfter (ptrText s) (lenCount s)) sendlineLand p s := by
  rcases h with hq | ⟨hq, rfl⟩ <;> simp only [exec, execSendline, hq]
  rw [sendLoop_eq, runStart_goto]

theorem exec_sendline_wait {p : SendPt} (here : SendAt p s) (poll : p.IsPoll)
    (wait : threSet s.params (s.portAnswer .lineStatus) = false) :
    exec .sendline s = .next ((s.afterPortRead .lineStatus).setSeq (.sendline p)) := by
  rw [exec_sendline_at here, runAccess_portRead (sendAccess_poll poll _ s),
    sendAfter_wait (s := s.afterPortRead .lineStatus) poll wait]
  rfl

theorem exec_sendline_poll_ready (here : SendAt (.poll i) s)
    (ready : threSet s.params (s.portAnswer .lineStatus) = true) (admitted : Admitted s (s.ptr.toNat + i)) :
    exec .sendline s = .next ((s.afterPortRead .lineStatus).setSeq (.sendline (.read i))) := by
  rw [exec_sendline_at here, runAccess_portRead rfl, sendAfter_poll_ready (s := s.afterPortRead .lineStatus) ready,
    ptrText, sendText_bus (s := s.afterPortRead .lineStatus) (readFault_of_admitted admitted)]
  rfl

theorem exec_sendline_read (here : SendAt (.read i) s) (admitted : Admitted s (s.ptr.toNat + i)) :
    exec .sendline s = .next ((s.afterMemRead (s.ptr.toNat + i)).setSeq
      (.sendline (.write i (s.byteAt (s.ptr.toNat + i))))) := by
  rw [exec_sendline_at here, runAccess_memRead rfl (readFault_of_admitted admitted)]
  rfl

theorem exec_sendline_write {b : Byte} (here : SendAt (.write i b) s) : exec .sendline s =
    .next ((s.afterPortWrite .data b).setSeq (.sendline (sendHead s.len.toNat (i + 1)))) := by
  rw [exec_sendline_at here, runAccess_portWrite rfl, sendAfter, sendLoop_eq]
  rfl

theorem exec_sendline_pollCr_ready (here : SendAt .pollCr s)
    (ready : threSet s.params (s.portAnswer .lineStatus) = true) :
    exec .sendline s = .next ((s.afterPortRead .lineStatus).setSeq (.sendline .writeCr)) := by
  rw [exec_sendline_at here, runAccess_portRead rfl, sendAfter_pollCr_ready (s := s.afterPortRead .lineStatus) ready]
  rfl

theorem exec_sendline_writeCr (here : SendAt .writeCr s) : exec .sendline s =
    .next ((s.afterPortWrite .data s.params.carriageReturn).setSeq (.sendline .pollLf)) := by
  rw [exec_sendline_at here]
  exact runAccess_portWrite rfl

theorem exec_sendline_pollLf_ready (here : SendAt .pollLf s)
    (ready : threSet s.params (s.portAnswer .lineStatus) = true) :
    exec .sendline s = .next ((s.afterPortRead .lineStatus).setSeq (.sendline .writeLf)) := by
  rw [exec_sendline_at here, runAccess_portRead rfl,
    sendAfter_pollLf_ready (s := s.afterPortRead .lineStatus) ready]
  rfl

theorem exec_sendline_writeLf (here : SendAt .writeLf s) :
    exec .sendline s = .next (s.afterPortWrite .data s.params.lineFeed).finish := by
  rw [exec_sendline_at here]
  exact runAccess_portWrite rfl

/-- Settles O21, access by access; each poll waits or goes on. -/
theorem sendlineMakesItsAccessesInOrder : Obligations.SendlineMakesItsAccessesInOrder := by
  intro s i v p
  refine ⟨fun q hq => ?polls, fun hq => exec_sendline_read (.inl hq), fun b hq => exec_sendline_write (.inl hq),
    fun hq => exec_sendline_writeCr (.inl hq), fun hq => ?pollLf, fun hq => exec_sendline_writeLf (.inl hq)⟩
  case polls =>
    have hq : SendAt q s := hq.imp_right fun ⟨hs, _, hp⟩ => ⟨hs, hp⟩
    refine ⟨?wait, ?ready, ?pollCr⟩
    case wait =>
      rintro rfl wait
      exact exec_sendline_wait hq (.byte i) (threSet_false wait)
    case ready =>
      rintro rfl ready admitted
      exact exec_sendline_poll_ready hq (threSet_true ready) admitted
    case pollCr =>
      rintro rfl
      split
      case isTrue wait => exact exec_sendline_wait hq .cr (threSet_false wait)
      case isFalse ready => exact exec_sendline_pollCr_ready hq (threSet_true ready)
  case pollLf =>
    split
    case isTrue wait => exact exec_sendline_wait (.inl hq) .lf (threSet_false wait)
    case isFalse ready => exact exec_sendline_pollLf_ready (.inl hq) (threSet_true ready)

/-! ### Polls answered by a list -/

/-- A port read that the next listed answer serves (20_memory R66). -/
theorem afterPortRead_oracle (oracle : s.uart.mode = .oracle) {v : Byte} {vs : List Byte}
    (answers : s.uart.answers = v :: vs) (r : UartReg) :
    s.afterPortRead r = (s.setUart { s.uart with answers := vs }).record (.pr (uartPort s.params r) v) := by
  rw [State.afterPortRead, afterRead_oracle oracle, portAnswer_oracle_cons oracle answers, answers, List.tail_cons]

/-- Of the oracle's device a write only records its event (20_memory R67). -/
theorem afterPortWrite_oracle (oracle : s.uart.mode = .oracle) (r : UartReg) (v : Byte) :
    s.afterPortWrite r v = s.record (.pw (uartPort s.params r) v) := by
  rw [State.afterPortWrite, afterWrite_oracle oracle]
  rfl

/-- A poll stays where it is for as many reads of LSR as are answered without THRE (40_uart R104). -/
theorem stepN_sendline_wait {p : SendPt} (poll : p.IsPoll) {silent rest : List Byte} (h : Underway .sendline s)
    (hq : s.seq = .sendline p) (oracle : s.uart.mode = .oracle) (answers : s.uart.answers = silent ++ rest)
    (wait : ∀ b ∈ silent, threSet s.params b = false) :
    stepN silent.length s = .next { s with
      uart := { s.uart with answers := rest }
      history := (silent.map (Event.pr (uartPort s.params .lineStatus))).reverse ++ s.history } := by
  induction silent generalizing s with
  | nil => subst answers; rfl
  | cons v vs ih =>
    have once := h.step.trans (exec_sendline_wait (.inl hq) poll (by
      rw [portAnswer_oracle_cons oracle answers]
      exact wait v List.mem_cons_self))
    have later := h.portRead .lineStatus (.sendline p)
    rw [afterPortRead_oracle oracle answers] at once later
    rw [List.length_cons, stepN_succ once, ih later rfl oracle rfl fun b hb => wait b (.tail v hb)]
    simp [← hq]

/-- Settles O23: SENDLINE stands at a poll, and the polls wait. -/
theorem waitTxHasNoBound : Obligations.WaitTxHasNoBound := by
  intro s i silent rest busy host word hq oracle answers dark
  have wait : ∀ b ∈ silent, threSet s.params b = false := fun b hb => threSet_false (dark b hb)
  have h : Underway .sendline s := ⟨busy, host, word⟩
  rcases hq with hq | hq | hq
  · exact stepN_sendline_wait (.byte i) h hq oracle answers wait
  · exact stepN_sendline_wait .cr h hq oracle answers wait
  · exact stepN_sendline_wait .lf h hq oracle answers wait

/-! ### A whole line -/

/-- `s` with SEQ at `q`, the answers `vs` still to come, and the events `es` (newest first) recorded since. -/
def State.sentOn (s : State) (q : Seq) (vs : List Byte) (es : List Event) : State :=
  { s with seq := q, uart := { s.uart with answers := vs }, history := es ++ s.history }

/-- From `s`, whose UART is the oracle, SENDLINE came in `k` steps to point `p`, with the events `es` (newest first) and
the answers `vs` still to come. -/
structure SendRun (s : State) (k : Nat) (p : SendPt) (vs : List Byte) (es : List Event) : Prop where
  underway : Underway .sendline s
  oracle : s.uart.mode = .oracle
  run : ∃ q, SendAt p (s.sentOn q vs es) ∧ stepN k s = .next (s.sentOn q vs es)

theorem Started.sendRun (h : Started s .sendline) (oracle : s.uart.mode = .oracle) :
    SendRun s 0 (sendHead s.len.toNat 0) s.uart.answers [] := by
  have underway := h.underway
  obtain ⟨-, hq, -⟩ := h
  exact ⟨underway, oracle, s.seq, .inr ⟨hq, rfl⟩, rfl⟩

namespace SendRun
variable {k : Nat} {p : SendPt} {v : Byte} {vs : List Byte} {es : List Event}

/-- One more step. -/
theorem next (h : SendRun s k p vs es) {u : State}
    (once : ∀ q, SendAt p (s.sentOn q vs es) → exec .sendline (s.sentOn q vs es) = .next u) :
    stepN (k + 1) s = .next u := by
  obtain ⟨underway, -, q, here, run⟩ := h
  have here' : Underway .sendline (s.sentOn q vs es) := ⟨underway.busy, underway.host, underway.word⟩
  rw [stepN_add run, stepN_succ (here'.step.trans (once q here))]
  rfl

/-- One more poll, which sees THRE. -/
theorem poll (h : SendRun s k p (v :: vs) es) {p' : SendPt} (ready : threSet s.params v = true)
    (once : ∀ q, SendAt p (s.sentOn q (v :: vs) es) →
      threSet s.params ((s.sentOn q (v :: vs) es).portAnswer .lineStatus) = true →
      exec .sendline (s.sentOn q (v :: vs) es) =
        .next (((s.sentOn q (v :: vs) es).afterPortRead .lineStatus).setSeq (.sendline p'))) :
    SendRun s (k + 1) p' vs (.pr (uartPort s.params .lineStatus) v :: es) := by
  refine ⟨h.underway, h.oracle, .sendline p', .inl rfl, h.next fun q here => ?_⟩
  have answer := portAnswer_oracle_cons (s := s.sentOn q (v :: vs) es) h.oracle rfl .lineStatus
  rw [once q here (answer.symm ▸ ready), afterPortRead_oracle (s := s.sentOn q (v :: vs) es) h.oracle rfl]
  rfl

/-- One more THR write. -/
theorem write (h : SendRun s k p vs es) {p' : SendPt} {b : Byte}
    (once : ∀ q, SendAt p (s.sentOn q vs es) → exec .sendline (s.sentOn q vs es) =
      .next (((s.sentOn q vs es).afterPortWrite .data b).setSeq (.sendline p'))) :
    SendRun s (k + 1) p' vs (.pw (uartPort s.params .data) b :: es) := by
  refine ⟨h.underway, h.oracle, .sendline p', .inl rfl, h.next fun q here => ?_⟩
  rw [once q here, afterPortWrite_oracle (s := s.sentOn q vs es) h.oracle]
  rfl

/-- One more text read. -/
theorem read (h : SendRun s k (.read i) vs es) (admitted : Admitted s (s.ptr.toNat + i)) :
    SendRun s (k + 1) (.write i (s.byteAt (s.ptr.toNat + i))) vs
      (.mr (s.ptr.toNat + i) (s.byteAt (s.ptr.toNat + i)) :: es) := by
  refine ⟨h.underway, h.oracle, .sendline (.write i (s.byteAt (s.ptr.toNat + i))), .inl rfl, h.next fun q here => ?_⟩
  rw [exec_sendline_read here admitted]
  rfl

/-- One byte of the line: its poll, its text read, its THR write (40_uart R105). -/
theorem byte (h : SendRun s k (.poll i) (v :: vs) es) (ready : threSet s.params v = true)
    (admitted : Admitted s (s.ptr.toNat + i)) :
    SendRun s (k + 3) (sendHead s.len.toNat (i + 1)) vs
      (.pw (uartPort s.params .data) (s.byteAt (s.ptr.toNat + i)) ::
        .mr (s.ptr.toNat + i) (s.byteAt (s.ptr.toNat + i)) :: .pr (uartPort s.params .lineStatus) v :: es) :=
  have polled := h.poll ready fun _ here seen => exec_sendline_poll_ready here seen admitted
  (polled.read admitted).write fun _ here => exec_sendline_write here

/-- The end of the line: CR, then LF, each past a poll that sees THRE, and the command ends (40_uart R105). -/
theorem crLf {w : Byte} (h : SendRun s k .pollCr (v :: w :: vs) es) (readyCr : threSet s.params v = true)
    (readyLf : threSet s.params w = true) :
    stepN (k + 4) s = .next (s.sentOn .empty vs (.pw (uartPort s.params .data) s.params.lineFeed ::
      .pr (uartPort s.params .lineStatus) w :: .pw (uartPort s.params .data) s.params.carriageReturn ::
      .pr (uartPort s.params .lineStatus) v :: es)).finish := by
  have polledCr := h.poll readyCr fun _ here seen => exec_sendline_pollCr_ready here seen
  have cr := polledCr.write (b := s.params.carriageReturn) fun _ here => exec_sendline_writeCr here
  have polledLf := cr.poll readyLf fun _ here seen => exec_sendline_pollLf_ready here seen
  refine polledLf.next fun q here => ?_
  rw [exec_sendline_writeLf here, afterPortWrite_oracle (s := s.sentOn q vs _) h.oracle]
  rfl

end SendRun

/-- The answers still to come after `k` polls of a line of `n` bytes. -/
def answersFrom (ready : Nat → Byte) (rest : List Byte) (n k : Nat) : List Byte :=
  (List.range' k (n + 2 - k)).map ready ++ rest

theorem answersFrom_eq_cons {n k : Nat} (ready : Nat → Byte) (rest : List Byte) (hk : k < n + 2) :
    answersFrom ready rest n k = ready k :: answersFrom ready rest n (k + 1) := by
  rw [answersFrom, show n + 2 - k = n + 2 - (k + 1) + 1 by omega, List.range'_succ]
  rfl

/-- The events of the first `k` bytes of a line, in order (40_uart R105). -/
def bytesEvents (p : Params) (a : Nat) (txt : List Byte) (ready : Nat → Byte) (k : Nat) : List Event :=
  (List.range k).flatMap fun j =>
    [.pr (p.uartBase + 5#16) (ready j), .mr (a + j) (txt.getD j 0x00#8), .pw (p.uartBase + 0#16) (txt.getD j 0x00#8)]

theorem bytesEvents_succ (p : Params) (a : Nat) (txt : List Byte) (ready : Nat → Byte) (k : Nat) :
    bytesEvents p a txt ready (k + 1) = bytesEvents p a txt ready k ++
      [.pr (p.uartBase + 5#16) (ready k), .mr (a + k) (txt.getD k 0x00#8),
        .pw (p.uartBase + 0#16) (txt.getD k 0x00#8)] := by
  simp [bytesEvents, List.range_succ]

/-- The first `k` bytes of a line, by induction on `k`. -/
theorem sendRun_bytes {txt : List Byte} {ready : Nat → Byte} {rest : List Byte} (started : Started s .sendline)
    (len : s.len.toNat = txt.length) (text : TextAt s s.ptr.toNat txt) (oracle : s.uart.mode = .oracle)
    (answers : s.uart.answers = answersFrom ready rest txt.length 0)
    (thre : ∀ j, j < txt.length + 2 → threSet s.params (ready j) = true) {k : Nat} (hk : k ≤ txt.length) :
    SendRun s (3 * k) (sendHead txt.length k) (answersFrom ready rest txt.length k)
      (bytesEvents s.params s.ptr.toNat txt ready k).reverse := by
  induction k with
  | zero =>
    rw [← answers, ← len]
    exact started.sendRun oracle
  | succ k ih =>
    have before := ih (by omega)
    rw [sendHead_lt hk, answersFrom_eq_cons ready rest (by omega)] at before
    obtain ⟨-, -, -, byte⟩ := text k hk
    have after := before.byte (thre k (by omega)) (text.admitted hk)
    rw [byte, len] at after
    rw [bytesEvents_succ, List.reverse_append]
    exact after

/-- Settles O22: the bytes, then CR LF. -/
theorem sendlineSendsItsBytesThenCrLf : Obligations.SendlineSendsItsBytesThenCrLf := by
  intro s txt ready rest started len text oracle answers thre
  have thre : ∀ j, j < txt.length + 2 → threSet s.params (ready j) = true := fun j hj => threSet_true (thre j hj)
  have answers : s.uart.answers = answersFrom ready rest txt.length 0 := by
    rw [answers, List.range_eq_range']
    rfl
  have bytes := sendRun_bytes started len text oracle answers thre (Nat.le_refl _)
  rw [sendHead_ge (Nat.le_refl _), answersFrom_eq_cons ready rest (by omega),
    answersFrom_eq_cons ready rest (by omega)] at bytes
  rw [bytes.crLf (thre _ (by omega)) (thre _ (by omega)), answersFrom, Nat.sub_self]
  simp [sendEvents, State.sentOn, State.finish, bytesEvents, uartPort, uartOffset]

end Sys2Proof.Machine
end

section
/-! PollGuard, through a step of each body and a move of the host: a THR write has a ready poll behind it (40_uart
R102 b). -/

namespace Sys2Proof.Machine

variable {s t : State}

/-! ### Where no SendBody is past its poll -/

theorem sendHead_not_polled (n i : Nat) : ¬ (sendHead n i).polled := by
  unfold sendHead
  split <;> exact id

/-- A body's flow lands under the guard where its points and what follows it do. -/
theorem pollGuard_land {P R : Type} {place : P → Seq} {follow : R → State → State} {r : State × Flow P R}
    (hp : ∀ p, PollGuard (r.1.setSeq (place p))) (hf : ∀ x, PollGuard (follow x r.1)) :
    PollGuard (land place follow r) := by
  obtain ⟨w, f⟩ := r
  cases f with
  | goto p => exact hp p
  | ended x => exact hf x
  | raised c => trivial

/-- A step of a body ends under the guard where its landing does: fault entry empties SEQ. -/
theorem pollGuard_runAccess {P R : Type} {access : P → State → Option Access}
    {after : P → Byte → State → State × Flow P R} {landing : State × Flow P R → State} {p : P}
    (run : runAccess access after landing p s = .next t) (hl : ∀ r, PollGuard (landing r)) : PollGuard t := by
  obtain ⟨x, _, ⟨v, u, _, rfl⟩ | ⟨c, _, rfl⟩⟩ := runAccess_next run
  · exact hl _
  · trivial

theorem pollGuard_panicMsgLand (r : State × Flow PrintAtPt Unit) : PollGuard (panicMsgLand r) :=
  pollGuard_land (fun _ => trivial) fun _ => trivial

theorem pollGuard_panicFillLand (r : State × Flow FillPt Unit) : PollGuard (panicFillLand r) :=
  pollGuard_land (fun _ => trivial) fun _ => pollGuard_panicMsgLand _

/-- BOOT's SendBody starts at a poll (40_uart R105). -/
theorem pollGuard_bootPrintLand (r : State × Flow PrintPt Unit) : PollGuard (bootPrintLand r) := by
  refine pollGuard_land (fun _ => trivial) fun _ => ?_
  rw [sendLoop_eq]
  exact fun polled => absurd polled (sendHead_not_polled _ 0)

theorem pollGuard_bootMsgLand (r : State × Flow PrintAtPt Unit) : PollGuard (bootMsgLand r) :=
  pollGuard_land (fun _ => trivial) fun _ => pollGuard_bootPrintLand _

theorem pollGuard_bootFillLand (r : State × Flow FillPt Unit) : PollGuard (bootFillLand r) :=
  pollGuard_land (fun _ => trivial) fun _ => pollGuard_bootMsgLand _

theorem pollGuard_bootInitLand (r : State × Flow InitPt Bool) : PollGuard (bootInitLand r) :=
  pollGuard_land (fun _ => trivial) fun ok => by
    cases ok
    · trivial
    · exact pollGuard_bootPrintLand _

/-! ### SendBody -/

/-- After a port read of LSR that sees THRE the last port access is that read. -/
theorem afterReadyPoll_afterPortRead (ready : threSet s.params (s.portAnswer .lineStatus) = true) :
    afterReadyPoll (s.afterPortRead .lineStatus) := ⟨_, rfl, ready⟩

/-- A step of SendBody, in SENDLINE or in BOOT, keeps the guard: a poll goes on past itself only when it saw THRE, and
the text read between the poll and the write is no port access. -/
theorem pollGuard_send {place : SendPt → Seq} {follow : Unit → State → State} {src : TextSrc} {n : Nat} {p : SendPt}
    (run : runAccess (sendAccess src) (sendAfter src n) (land place follow) p s = .next t)
    (hplace : ∀ u q, (q.polled → afterReadyPoll u) → PollGuard (u.setSeq (place q))) (hf : ∀ u, PollGuard (follow () u))
    (guard : p.polled → afterReadyPoll s) : PollGuard t := by
  have atPoll : p.IsPoll → PollGuard t := fun poll => by
    rw [runAccess_portRead (sendAccess_poll poll src s)] at run
    cases run
    cases seen : threSet s.params (s.portAnswer .lineStatus) with
    | false =>
      rw [sendAfter_wait (s := s.afterPortRead .lineStatus) poll seen]
      refine hplace _ _ fun polled => ?_
      cases poll <;> exact polled.elim
    | true =>
      refine pollGuard_land (fun q => ?_) fun _ => hf _
      rw [sendAfter_state]
      exact hplace _ q fun _ => afterReadyPoll_afterPortRead seen
  cases p with
  | poll i => exact atPoll (.byte i)
  | pollCr => exact atPoll .cr
  | pollLf => exact atPoll .lf
  | read i =>
    obtain ⟨x, hx, ⟨v, u, hp, rfl⟩ | ⟨c, _, rfl⟩⟩ := runAccess_next run
    · refine hplace u _ fun _ => ?_
      obtain ⟨w, last, ready⟩ := guard trivial
      obtain ⟨_, same⟩ := perform_onMemory (textAccess_onMemory src i x hx) hp
      rw [afterReadyPoll, same, perform_got hp]
      exact ⟨w, last, ready⟩
    · trivial
  | write i b =>
    rw [runAccess_portWrite rfl, sendAfter, sendLoop_eq] at run
    cases run
    exact hplace _ _ fun polled => absurd polled (sendHead_not_polled n (i + 1))
  | writeCr =>
    rw [runAccess_portWrite rfl] at run
    cases run
    exact hplace _ _ fun polled => polled.elim
  | writeLf =>
    rw [runAccess_portWrite rfl] at run
    cases run
    exact hf _

/-! ### The commands -/

/-- A step of SENDLINE is a step of SendBody at the point where it stands. -/
theorem sendline_next_at (run : exec .sendline s = .next t) :
    ∃ p, SendAt p s ∧
      runAccess (sendAccess (ptrText s)) (sendAfter (ptrText s) (lenCount s)) sendlineLand p s = .next t := by
  obtain ⟨p, hq | hq, _⟩ := sendline_next run
  · exact ⟨_, .inr ⟨hq, rfl⟩, exec_sendline_at (.inr ⟨hq, rfl⟩) ▸ run⟩
  · exact ⟨p, .inl hq, exec_sendline_at (.inl hq) ▸ run⟩

/-- A point of SENDLINE past its poll stands in SEQ, so the guard speaks of it. -/
theorem PollGuard.of_sendAt (guard : PollGuard s) {p : SendPt} (here : SendAt p s) (polled : p.polled) :
    afterReadyPoll s := by
  rcases here with hq | ⟨_, rfl⟩
  · rw [PollGuard, hq] at guard
    exact guard polled
  · exact absurd polled (sendHead_not_polled _ 0)

theorem pollGuard_boot (guard : PollGuard s) (run : exec .boot s = .next t) : PollGuard t := by
  cases boot_next run with
  | clear p _ run => exact pollGuard_runAccess run fun _ => pollGuard_land (fun _ => trivial) fun _ => trivial
  | init p _ run => exact pollGuard_runAccess run pollGuard_bootInitLand
  | fill p _ run => exact pollGuard_runAccess run pollGuard_bootFillLand
  | msg p _ run => exact pollGuard_runAccess run pollGuard_bootMsgLand
  | print p _ run => exact pollGuard_runAccess run pollGuard_bootPrintLand
  | send p hq run =>
    rw [PollGuard, hq] at guard
    exact pollGuard_send run (fun _ _ => id) (fun _ => trivial) guard

/-- A step of a command keeps the guard. -/
theorem pollGuard_exec {i : Instr} (guard : PollGuard s) (run : exec i s = .next t) : PollGuard t := by
  cases i with
  | init =>
    obtain ⟨p, _, run⟩ := init_next run
    exact pollGuard_runAccess run fun _ => pollGuard_land (fun _ => trivial) fun _ => trivial
  | txrdy =>
    obtain ⟨_, run⟩ := txrdy_next run
    exact pollGuard_runAccess run fun _ => pollGuard_land (fun _ => trivial) fun _ => trivial
  | sendline =>
    obtain ⟨p, here, run⟩ := sendline_next_at run
    exact pollGuard_send run (fun _ _ => id) (fun _ => trivial) (guard.of_sendAt here)
  | clear =>
    obtain ⟨p, _, run⟩ := clear_next run
    exact pollGuard_runAccess run fun _ => pollGuard_land (fun _ => trivial) fun _ => trivial
  | print =>
    rcases print_next run with ⟨p, _, run⟩ | ⟨_, c, rfl⟩
    · exact pollGuard_runAccess run fun _ => pollGuard_land (fun _ => trivial) fun _ => trivial
    · trivial
  | printat col row =>
    rcases printat_next run with ⟨p, _, run⟩ | ⟨_, c, rfl⟩
    · exact pollGuard_runAccess run fun _ => pollGuard_land (fun _ => trivial) fun _ => trivial
    · trivial
  | panic =>
    rcases panic_next run with ⟨p, _, run⟩ | ⟨p, _, run⟩
    · exact pollGuard_runAccess run pollGuard_panicFillLand
    · exact pollGuard_runAccess run pollGuard_panicMsgLand
  | boot => exact pollGuard_boot guard run

/-! ### THR writes -/

/-- SendBody writes past its polls only (40_uart R102 b). -/
theorem polled_of_portWrite {src : TextSrc} {p : SendPt} {r : UartReg} {b : Byte}
    (h : sendAccess src p s = some (.portWrite r b)) : p.polled := by
  cases p with
  | poll i => cases h
  | pollCr => cases h
  | pollLf => cases h
  | _ => trivial

/-- A step of a body that records a port write made that access. -/
theorem runAccess_portWrite_event {P R : Type} {access : P → State → Option Access}
    {after : P → Byte → State → State × Flow P R} {landing : State × Flow P R → State} {p : P} {a : Port} {b : Byte}
    (hl : ∀ v u, Landed u (landing (after p v u))) (run : runAccess access after landing p s = .next t)
    (event : t.history = .pw a b :: s.history) : ∃ r v, access p s = some (.portWrite r v) := by
  rcases stepped_runAccess hl run with ⟨x, v, u, hx, hp, landed⟩ | ⟨_, c, rfl⟩
  · obtain ⟨_, own⟩ := perform_event hp
    have same : eventOf s x = .pw a b := List.head_eq_of_cons_eq (own.symm.trans (landed.history.symm.trans event))
    cases x with
    | portWrite r w => exact ⟨r, w, hx⟩
    | _ => cases same
  · exact absurd event.symm (List.cons_ne_self _ _)

/-- Settles O24: each kind of step keeps the guard, and SENDLINE writes THR past a poll only. -/
theorem thrWritesFollowAReadyPoll : Obligations.ThrWritesFollowAReadyPoll := by
  refine ⟨fun s t guard run => ?kept, fun s t b guard run event => ?write⟩
  case kept =>
    cases stepping_of_step run with
    | command moves i _ _ run => exact pollGuard_exec (s := s.setHost moves) guard run
    | illegal moves why _ _ => trivial
    | reset moves _ => trivial
    | _ => exact guard
  case write =>
    obtain ⟨p, here, run⟩ := sendline_next_at run
    obtain ⟨r, v, access⟩ :=
      runAccess_portWrite_event (fun v u => landed_sendlineLand (computed_sendAfter _ _ p v u)) run event
    exact guard.of_sendAt here (polled_of_portWrite access)

end Sys2Proof.Machine
end

section
/-! What INIT, TXRDY and SENDLINE leave alone (40_uart R100 e, R101 a, R102 f). -/

namespace Sys2Proof.Machine

variable {s t : State}

/-- The UART family writes no memory (40_uart R100 e, R101 a, R102 f). -/
theorem uartCommand_ne_memWrite {i : Instr} (hi : i = .init ∨ i = .txrdy ∨ i = .sendline) (s : State) (a : Nat)
    (v : Byte) : nextAccess i s ≠ some (.memWrite a v) := by
  rcases hi with rfl | rfl | rfl
  · change initNext s ≠ _
    unfold initNext
    split
    · exact initAccess_ne_memWrite _
    · exact initAccess_ne_memWrite _
    · nofun
  · change txrdyNext s ≠ _
    unfold txrdyNext
    split <;> nofun
  · change sendlineNext s ≠ _
    unfold sendlineNext
    split
    · rw [sendLoop_eq]
      exact sendAccess_ne_memWrite _ _
    · exact sendAccess_ne_memWrite _ _
    · nofun

/-- A step whose access is no write leaves memory as it was. -/
theorem Stepped.mem {x : Option Access} (h : Stepped s t x) (hx : ∀ a v, x ≠ some (.memWrite a v)) :
    t.mem = s.mem := by
  rcases h with ⟨y, v, u, rfl, hp, landed⟩ | ⟨_, c, rfl⟩
  · rw [landed.mem]
    rcases perform_cases s y with ⟨_, _, e⟩ | ⟨_, _, _, e⟩ | ⟨_, _, _, e⟩ | ⟨_, _, _, _, e⟩ | ⟨a, w, rfl, _, _⟩ |
      ⟨_, _, _, _, e⟩
    case inr.inr.inr.inr.inl => exact absurd rfl (hx a w)
    all_goals rw [e] at hp; cases hp
    all_goals rfl
  · rfl

/-- A port access raises no fault, so a body that makes no other ends a step with the fault registers its landing
leaves. -/
theorem runAccess_ports_faultRegs {P R : Type} {access : P → State → Option Access}
    {after : P → Byte → State → State × Flow P R} {landing : State × Flow P R → State} {p : P}
    (run : runAccess access after landing p s = .next t) (ports : ∀ a, access p s ≠ some (.memRead a))
    (hl : ∀ v u, (landing (after p v u)).faultCode = u.faultCode ∧ (landing (after p v u)).faultCmd = u.faultCmd) :
    t.faultCode = s.faultCode ∧ t.faultCmd = s.faultCmd := by
  obtain ⟨x, hx, ⟨v, u, hp, rfl⟩ | ⟨c, hp, rfl⟩⟩ := runAccess_next run
  · obtain ⟨code, word⟩ := hl v u
    rw [code, word, perform_got hp]
    exact ⟨rfl, rfl⟩
  · obtain ⟨a, rfl, _⟩ := perform_raised hp
    exact absurd hx (ports a)

/-- INIT raises no fault (40_uart R100). -/
theorem init_faultRegs (run : exec .init s = .next t) : t.faultCode = s.faultCode ∧ t.faultCmd = s.faultCmd := by
  obtain ⟨p, _, run⟩ := init_next run
  refine runAccess_ports_faultRegs run (fun a => by cases p <;> nofun) fun v u => ?_
  rcases initLand_after p v u with ⟨q, e⟩ | ⟨b, _, e⟩ <;> rw [e] <;> exact ⟨rfl, rfl⟩

/-- TXRDY raises no fault (40_uart R101). -/
theorem txrdy_faultRegs (run : exec .txrdy s = .next t) : t.faultCode = s.faultCode ∧ t.faultCmd = s.faultCmd := by
  obtain ⟨_, run⟩ := txrdy_next run
  exact runAccess_ports_faultRegs run nofun fun _ _ => ⟨rfl, rfl⟩

/-- Settles O26: the registers by what each command writes, memory by the accesses being no writes of it, the fault
registers by INIT and TXRDY raising no fault. -/
theorem uartCommandsFrame : Obligations.UartCommandsFrame := by
  intro i s t hi run
  have stepped := exec_next run
  have same := stepped.sameCommand
  have writes := exec_writes run
  have boot : i ≠ .boot := by rcases hi with rfl | rfl | rfl <;> simp
  have print : i ≠ .print := by rcases hi with rfl | rfl | rfl <;> simp
  obtain ⟨cursorX, cursorY⟩ := writes.cursor print boot
  have mem := stepped.mem (uartCommand_ne_memWrite hi s)
  refine ⟨same.params, same.cmd, same.ptr, same.len, cursorX, cursorY, mem, byteAt_congr mem same.params same.resets,
    same.resets, same.host, same.seen, fun init => writes.initOk init boot, writes.txrdy, fun noFault => ?_⟩
  rcases stepped.faultRegs with ⟨_, kept⟩ | ⟨fault, _⟩
  · exact kept
  · have sendline : i ≠ .sendline := noFault.resolve_right fun moved => moved fault
    rcases hi with rfl | rfl | rfl
    · exact init_faultRegs run
    · exact txrdy_faultRegs run
    · exact absurd rfl sendline

end Sys2Proof.Machine
end

section
/-! The console family, one access a step: FillBody, PrintBody and PrintAtBody in whatever command runs them, and from
them CLEAR, PRINT, PRINTAT and PANIC at each of their accesses (41_console R132, R133, R137, R138). -/

namespace Sys2Proof.Machine

variable {s : State} {c i : Nat}

/-- A step of a body at its point: the access there, and the computation after it. -/
abbrev Turn (P : Type) := P → State → Host.Outcome State Fault Refusal

/-! ### FillBody (41_console R133) -/

section Fill
variable {place : FillPt → Seq} {follow : Unit → State → State} {ch attr : Byte}

/-- FillBody(ch, attr), in the command that has this landing. -/
def fillTurn (ch attr : Byte) (landing : State × Flow FillPt Unit → State) : Turn FillPt :=
  runAccess (fillAccess ch attr) fillAfter landing

theorem fillStep_char (hc : c < cells s.params) :
    fillTurn ch attr (land place follow) (.char c) s =
      .next ((s.afterMemWrite (s.params.vgaBase + 2 * c) ch).setSeq (place (.attr c))) :=
  runAccess_memWrite rfl (inFb_cellAddr s.params hc)

theorem fillStep_attr (hc : c + 1 < cells s.params) :
    fillTurn ch attr (land place follow) (.attr c) s =
      .next ((s.afterMemWrite (s.params.vgaBase + 2 * c + 1) attr).setSeq (place (.char (c + 1)))) := by
  rw [fillTurn, runAccess_memWrite rfl (inFb_cellAddr_succ s.params (Nat.lt_of_succ_lt hc)),
    fillAfter_attr_lt (s := s.afterMemWrite _ _) hc]
  rfl

theorem fillStep_last (hc : c + 1 = cells s.params) :
    fillTurn ch attr (land place follow) (.attr c) s =
      .next (follow () (s.afterMemWrite (s.params.vgaBase + 2 * c + 1) attr)) := by
  rw [fillTurn, runAccess_memWrite rfl (inFb_cellAddr_succ s.params (Nat.le_of_eq hc)),
    fillAfter_attr_last (s := s.afterMemWrite _ _) (Nat.le_of_eq hc.symm)]
  rfl

end Fill

/-! ### PrintBody (41_console R132) -/

section Print
variable {place : PrintPt → Seq} {follow : Unit → State → State} {col row x : Nat}

/-- PrintBody on a text, in the command that has this landing. -/
def printTurn (src : TextSrc) (landing : State × Flow PrintPt Unit → State) : Turn PrintPt :=
  runAccess (printAccess src) (printAfter src) landing

/-- A character's write, wherever the text comes from. -/
theorem printStep_char (src : TextSrc) {b : Byte} (hcol : col < s.params.cols) (hrow : row < s.params.rows) :
    printTurn src (land place follow) (.char i col row b) s =
      .next ((s.afterMemWrite (s.params.vgaBase + 2 * (row * s.params.cols + col)) b).setSeq
        (place (.attr i col row))) :=
  runAccess_memWrite rfl (inFb_cellAddr s.params (cellIndex_lt hcol hrow))

/-- PRINT_ATTR's write moves CURSOR on and comes to the next byte of the text, wherever the text comes from. -/
theorem printStep_attr (src : TextSrc) (hcol : col < s.params.cols) (hrow : row < s.params.rows) :
    printTurn src (land place follow) (.attr i col row) s =
      .next (land place follow (printText src (i + 1) (advance s.params col row).1 (advance s.params col row).2
        ((s.afterMemWrite (s.params.vgaBase + 2 * (row * s.params.cols + col) + 1) s.params.printAttr).setCursor
          (advance s.params col row).1 (advance s.params col row).2))) :=
  runAccess_memWrite rfl (inFb_cellAddr_succ s.params (cellIndex_lt hcol hrow))

theorem printStep_attr_mem (hcol : col < s.params.cols) (hrow : row < s.params.rows)
    (next : Admitted s (x + (i + 1))) :
    printTurn (.mem x) (land place follow) (.attr i col row) s =
      .next (((s.afterMemWrite (s.params.vgaBase + 2 * (row * s.params.cols + col) + 1) s.params.printAttr).setCursor
        (advance s.params col row).1 (advance s.params col row).2).setSeq
          (place (.read (i + 1) (advance s.params col row).1 (advance s.params col row).2))) := by
  rw [printStep_attr _ hcol hrow,
    printText_bus (s := (s.afterMemWrite _ _).setCursor _ _) (readFault_of_admitted next)]
  rfl

theorem printStep_read {v : Byte} (admitted : Admitted s (x + i)) (byte : s.byteAt (x + i) = v) (char : v ≠ 0#8) :
    printTurn (.mem x) (land place follow) (.read i col row) s =
      .next ((s.afterMemRead (x + i)).setSeq (place (.char i col row v))) := by
  rw [printTurn, runAccess_memRead rfl (readFault_of_admitted admitted), printAfter, byte, printByte_char char]
  rfl

theorem printStep_end (admitted : Admitted s (x + i)) (terminated : s.byteAt (x + i) = 0#8)
    (hrow : row < s.params.rows) :
    printTurn (.mem x) (land place follow) (.read i col row) s =
      .next (follow () ((s.afterMemRead (x + i)).setCursor 0 ((row + 1) % s.params.rows))) := by
  rw [printTurn, runAccess_memRead rfl (readFault_of_admitted admitted), printAfter, terminated,
    printByte_terminator, State.afterMemRead_params, wrapRow_eq_mod hrow]
  rfl

end Print

/-! ### PrintAtBody (41_console R137) -/

section PrintAt
variable {place : PrintAtPt → Seq} {follow : Unit → State → State} {x : Nat}

/-- PrintAtBody on a text, in the command that has this landing. -/
def printAtTurn (src : TextSrc) (landing : State × Flow PrintAtPt Unit → State) : Turn PrintAtPt :=
  runAccess (printAtAccess src) (printAtAfter src) landing

theorem printAtStep_read {v : Byte} (admitted : Admitted s (x + i)) (byte : s.byteAt (x + i) = v) (char : v ≠ 0#8)
    (hc : c < cells s.params) :
    printAtTurn (.mem x) (land place follow) (.read c i) s =
      .next ((s.afterMemRead (x + i)).setSeq (place (.char c i v))) := by
  rw [printAtTurn, runAccess_memRead rfl (readFault_of_admitted admitted), printAtAfter, byte,
    printAtByte_char (s := s.afterMemRead _) char hc]
  rfl

theorem printAtStep_end (admitted : Admitted s (x + i)) (terminated : s.byteAt (x + i) = 0#8) :
    printAtTurn (.mem x) (land place follow) (.read c i) s =
      .next (follow () (s.afterMemRead (x + i))) := by
  rw [printAtTurn, runAccess_memRead rfl (readFault_of_admitted admitted), printAtAfter, terminated,
    printAtByte_terminator]
  rfl

theorem printAtStep_char {b : Byte} (hc : c < cells s.params) (next : Admitted s (x + (i + 1))) :
    printAtTurn (.mem x) (land place follow) (.char c i b) s =
      .next ((s.afterMemWrite (s.params.vgaBase + 2 * c) b).setSeq (place (.read (c + 1) (i + 1)))) := by
  rw [printAtTurn, runAccess_memWrite rfl (inFb_cellAddr s.params hc), printAtAfter,
    printAtText_bus (s := s.afterMemWrite _ _) (readFault_of_admitted next)]
  rfl

end PrintAt

/-! ### CLEAR -/

/-- CLEAR's next access is that of point `p`. -/
def ClearAt (p : FillPt) (s : State) : Prop := s.seq = .clear p ∨ s.seq = .empty ∧ p = .char 0

theorem exec_clear_at {p : FillPt} (h : ClearAt p s) :
    exec .clear s = fillTurn 0x00#8 0x00#8 clearLand p s := by
  rcases h with hq | ⟨hq, rfl⟩ <;> simp only [exec, execClear, hq, fillTurn]

/-- Settles O27: the two writes of a cell, and after the second of them the next cell or the end. -/
theorem clearWritesCellByCell : Obligations.ClearWritesCellByCell := by
  intro s c hc
  refine ⟨fun hq => ?char, fun hq => ?attr⟩
  case char =>
    rw [exec_clear_at (hq.imp_right fun ⟨empty, first⟩ => ⟨empty, by rw [first]⟩)]
    exact fillStep_char (place := .clear) hc
  case attr =>
    rw [exec_clear_at (.inl hq)]
    split
    case isTrue more => exact fillStep_attr (place := .clear) more
    case isFalse last => exact fillStep_last (place := .clear) (by omega)

/-! ### PRINT -/

/-- PRINT's next access is that of point `p`. -/
def PrintingAt (p : PrintPt) (s : State) : Prop :=
  s.seq = .print p ∨ s.seq = .empty ∧ p = .read 0 0 s.cursorY.toNat

/-- PRINT's first step is that of its first text read, the fault of an unreadable byte included. -/
theorem exec_printing_at {p : PrintPt} (h : PrintingAt p s) :
    exec .print s = printTurn (ptrText s) printLand p s := by
  rcases h with hq | ⟨hq, rfl⟩
  · exact exec_print_at hq
  · rw [exec_print_start hq]
    rcases printStart_mem s with ⟨e, _⟩ | ⟨c, e, hr⟩ <;> rw [e]
    · rfl
    · exact (runAccess_memRead_fault rfl hr).symm

/-- Settles O29: the text read and the two writes of a cell, each with what follows it. -/
theorem printMakesItsAccessesInOrder : Obligations.PrintMakesItsAccessesInOrder := by
  intro s i col row p
  refine ⟨fun hq admitted => ?read, fun b hq hcol hrow => ?char, fun hq hcol hrow next => ?attr⟩
  case read =>
    have here : PrintingAt (.read i col row) s := hq.imp_right fun ⟨empty, hi, hcol, hrow⟩ =>
      ⟨empty, by rw [hi, hcol, hrow]⟩
    rw [exec_printing_at here]
    exact ⟨fun char => printStep_read (place := .print) admitted rfl char,
      fun terminated hrow => printStep_end (place := .print) admitted terminated hrow⟩
  case char =>
    rw [exec_print_at hq]
    exact printStep_char (place := .print) _ hcol hrow
  case attr =>
    have moved := printStep_attr_mem (place := .print) (follow := fun _ t => t.finish) (x := p) hcol hrow next
    rw [advance_eq hcol hrow] at moved
    exact (exec_print_at hq).trans moved

/-- Settles O33: the first text read sees the terminator. -/
theorem emptyPrintAdvancesOneRow : Obligations.EmptyPrintAdvancesOneRow := by
  intro s ⟨busy, hq, host, word⟩ admitted terminated hrow
  obtain ⟨read, -, -⟩ := printMakesItsAccessesInOrder s 0 0 s.cursorY.toNat
  obtain ⟨-, ended⟩ := read (.inr ⟨hq, rfl, rfl, rfl⟩) admitted
  rw [step_busy busy host word, ended terminated hrow]
  simp only [Nat.add_zero, afterMemRead_eq, terminated]

/-! ### PRINTAT -/

/-- PRINTAT's next access is that of point `p`. -/
def PrintatAt (col row : Byte) (p : PrintAtPt) (s : State) : Prop :=
  s.seq = .printat p ∨ s.seq = .empty ∧ col.toNat < s.params.cols ∧ row.toNat < s.params.rows ∧
    p = .read (row.toNat * s.params.cols + col.toNat) 0

/-- On the screen PRINTAT's first step is that of its first text read, the fault of an unreadable byte included. -/
theorem exec_printat_from {col row : Byte} {p : PrintAtPt} (h : PrintatAt col row p s) :
    exec (.printat col row) s = printAtTurn (ptrText s) printatLand p s := by
  rcases h with hq | ⟨hq, hcol, hrow, rfl⟩
  · exact exec_printat_at col row hq
  · rw [exec_printat_start col row hq, printAtStart_ok hcol hrow]
    rcases hr : readFault s.params s.ptr.toNat with _ | f
    · rw [ptrText, printAtText_bus hr]
      rfl
    · rw [ptrText, printAtText_raised hr]
      exact (runAccess_memRead_fault rfl hr).symm

/-- Settles O34: the text read and the character, each with what follows it. -/
theorem printatMakesItsAccessesInOrder : Obligations.PrintatMakesItsAccessesInOrder := by
  intro s col row c i p
  refine ⟨fun hq admitted => ?read, fun b hq hc next => ?char⟩
  case read =>
    have here : PrintatAt col row (.read c i) s := hq.imp_right fun ⟨empty, hi, hcol, hrow, hc⟩ =>
      ⟨empty, hcol, hrow, by rw [hi, hc]⟩
    rw [exec_printat_from here]
    exact ⟨fun char hc => printAtStep_read (place := .printat) admitted rfl char hc,
      fun terminated => printAtStep_end (place := .printat) admitted terminated⟩
  case char =>
    rw [exec_printat_at col row hq]
    exact printAtStep_char (place := .printat) hc next

/-! ### PANIC -/

/-- PANIC's fill has point `p` as its next access. -/
def PanicFillAt (p : FillPt) (s : State) : Prop := s.seq = .panicFill p ∨ s.seq = .empty ∧ p = .char 0

theorem exec_panic_fill_at {p : FillPt} (h : PanicFillAt p s) :
    exec .panic s = fillTurn s.params.panicFillChar s.params.panicAttr panicFillLand p s := by
  rcases h with hq | ⟨hq, rfl⟩ <;> simp only [exec, execPanic, hq, fillTurn]

/-- After PANIC's fill its message begins (41_console R138). -/
theorem panicFillLand_ended (hcol : s.params.panicCol < s.params.cols) (hrow : s.params.panicRow < s.params.rows)
    (admitted : Admitted s s.ptr.toNat) :
    panicFillLand (s, .ended ()) = s.setSeq (.panicMsg (.read (panicCell s.params) 0)) := by
  rw [panicFillLand, land_ended, printAtStart_ok hcol hrow, ptrText, printAtText_bus (readFault_of_admitted admitted)]
  rfl

/-- The last write of PANIC's fill, and the turn to its message. -/
theorem exec_panic_fill_last (hc : c + 1 = cells s.params) (hcol : s.params.panicCol < s.params.cols)
    (hrow : s.params.panicRow < s.params.rows) (hq : s.seq = .panicFill (.attr c))
    (admitted : Admitted s s.ptr.toNat) :
    exec .panic s = .next ((s.afterMemWrite (s.params.vgaBase + 2 * c + 1) s.params.panicAttr).setSeq
      (.panicMsg (.read (panicCell s.params) 0))) := by
  rw [exec_panic_fill hq]
  exact (fillStep_last (place := .panicFill) hc).trans
    (congrArg _ (panicFillLand_ended (s := s.afterMemWrite _ _) hcol hrow admitted))

/-- Settles O36: the fill's two writes of a cell, the turn to the message, its text read and its character. -/
theorem panicMakesItsAccessesInOrder : Obligations.PanicMakesItsAccessesInOrder := by
  intro s c i p
  refine ⟨fun hc hq => ?char, fun hc hq => ?attr, fun hc hcol hrow hq admitted => ?last, fun hq admitted => ?msgRead,
    fun b hq hc next => ?msgChar⟩
  case char =>
    rw [exec_panic_fill_at (hq.imp_right fun ⟨empty, first⟩ => ⟨empty, by rw [first]⟩)]
    exact fillStep_char (place := .panicFill) hc
  case attr =>
    rw [exec_panic_fill hq]
    exact fillStep_attr (place := .panicFill) hc
  case last => exact exec_panic_fill_last hc hcol hrow hq admitted
  case msgRead =>
    rw [exec_panic_msg hq]
    exact ⟨fun char hc => printAtStep_read (place := .panicMsg) admitted rfl char hc,
      fun terminated => printAtStep_end (place := .panicMsg) admitted terminated⟩
  case msgChar =>
    rw [exec_panic_msg hq]
    exact printAtStep_char (place := .panicMsg) hc next

/-! ### CURSOR_X (41_console R143) -/

/-- A print under way is PRINT's or BOOT's, and the ENGINE is BUSY. -/
theorem Inv.print_or_boot (h : Inv s) (hin : inPrint s.seq) :
    s.state = .busy ∧ (decode s.cmd = .command .print ∨ decode s.cmd = .command .boot) := by
  constructor
  · refine Classical.byContradiction fun notBusy => ?_
    rw [h.seqEmpty notBusy] at hin
    exact hin
  · cases hq : s.seq <;> rw [hq] at hin
    case print p => exact .inl (h.fits hq).1
    case bootPrint p => exact .inr (h.fits hq).1
    all_goals exact hin.elim

/-- A nonzero column stands in FAULT after a PRINT, or in a running PRINT or BOOT. -/
theorem Inv.nonzero_column (h : Inv s) (hx : s.cursorX ≠ 0#8) :
    (s.state = .fault ∧ decode s.faultCmd = .command .print) ∨
      (s.state = .busy ∧ (decode s.cmd = .command .print ∨ decode s.cmd = .command .boot)) := by
  rcases h.column hx with ⟨fault, print⟩ | hin
  · refine .inl ⟨fault, ?_⟩
    rw [h.faultCmd, if_pos fault]
    exact print
  · exact .inr (h.print_or_boot hin)

/-- Settles O55, from the invariant that every step keeps. -/
theorem cursorColumnIsZeroBetweenCommands : Obligations.CursorColumnIsZeroBetweenCommands := by
  intro s t inv run
  have after : Inv t := everyStepKeepsTheInvariant s t inv run
  refine ⟨after.cursorX, after.cursorY, fun ended => ?_, after.nonzero_column⟩
  refine Classical.byContradiction fun hx => ?_
  rcases after.nonzero_column hx with ⟨fault, _⟩ | ⟨busy, _⟩
  · simp [fault] at ended
  · simp [busy] at ended

end Sys2Proof.Machine
end

section
/-! A run of accesses to memory: what it leaves of memory is what its events stored, so a whole command is known by its
events (20_memory R68, R77). -/

namespace Sys2Proof.Machine

variable {s b b' u : State} {es : List Event} {e : Event} {a : Nat} {v : Byte}

/-! ### The memory that events leave -/

/-- Memory `m` after the writes among the events `es`, newest first. -/
def stored (m : List Host.Cell) : List Event → List Host.Cell
  | [] => m
  | .mw a v :: es => memWrite (stored m es) a v
  | .mr _ _ :: es => stored m es
  | .pr _ _ :: es => stored m es
  | .pw _ _ :: es => stored m es

/-- Where the events write one value only to an address, memory holds it. -/
theorem memLookup_stored (m : List Host.Cell) (written : .mw a v ∈ es) (only : ∀ w, .mw a w ∈ es → w = v) :
    memLookup (stored m es) a = some v := by
  induction es with
  | nil => cases written
  | cons e es ih =>
    have later : ∀ w, .mw a w ∈ es → w = v := fun w hw => only w (.tail e hw)
    cases e with
    | mw x w =>
      rw [stored]
      by_cases hx : a = x
      · subst hx
        rw [memLookup_memWrite_same, only w (.head es)]
      · rw [memLookup_memWrite_other _ _ hx]
        exact ih ((List.mem_cons.1 written).resolve_left (by simp [hx])) later
    | _ => exact ih ((List.mem_cons.1 written).resolve_left nofun) later

/-- Where the events write nothing, memory is as it was. -/
theorem memLookup_stored_other (m : List Host.Cell) (untouched : ∀ v, .mw a v ∉ es) :
    memLookup (stored m es) a = memLookup m a := by
  induction es with
  | nil => rfl
  | cons e es ih =>
    have later : ∀ v, .mw a v ∉ es := fun v hv => untouched v (.tail e hv)
    cases e with
    | mw x w =>
      have hx : a ≠ x := fun h => untouched w (h ▸ .head es)
      rw [stored, memLookup_memWrite_other _ _ hx]
      exact ih later
    | _ => exact ih later

theorem stored_append (m : List Host.Cell) (es fs : List Event) : stored m (es ++ fs) = stored (stored m fs) es := by
  induction es with
  | nil => rfl
  | cons e es ih => cases e <;> simp only [List.cons_append, stored, ih]

/-! ### The state that events leave -/

/-- `s` with SEQ at `q`, and the events `es` (newest first) recorded and stored since. -/
def State.drawn (s : State) (q : Seq) (es : List Event) : State :=
  { s with seq := q, mem := stored s.mem es, history := es ++ s.history }

theorem drawn_drawn (s : State) (q r : Seq) (es fs : List Event) :
    (s.drawn q es).drawn r fs = s.drawn r (fs ++ es) := by
  simp only [State.drawn, stored_append, List.append_assoc]

/-- Where the events write one value only to a byte, the byte reads as that value. -/
theorem byteAt_drawn (q : Seq) (written : .mw a v ∈ es) (only : ∀ w, .mw a w ∈ es → w = v) :
    (s.drawn q es).byteAt a = v := by
  rw [State.byteAt, State.drawn, memLookup_stored s.mem written only]
  rfl

/-- Where the events write nothing, a byte reads as before. -/
theorem byteAt_drawn_other (q : Seq) (untouched : ∀ v, .mw a v ∉ es) : (s.drawn q es).byteAt a = s.byteAt a := by
  unfold State.byteAt
  rw [State.drawn, memLookup_stored_other s.mem untouched]
  rfl

/-- The events write inside FB only (20_memory R65). -/
def StoresInFb (p : Params) (es : List Event) : Prop := ∀ a v, .mw a v ∈ es → inFb p a = true

theorem StoresInFb.untouched {p : Params} (h : StoresInFb p es) (outside : inFb p a = false) : ∀ v, .mw a v ∉ es :=
  fun v hv => Bool.false_ne_true (outside.symm.trans (h a v hv))

/-! ### The run of a body -/

variable {P Q : Type} {i : Instr} {turn : Turn P} {place : P → Seq} {turn' : Turn Q} {place' : Q → Seq} {k : Nat}
  {p p' : P} {p'' : Q}

/-- Where SEQ names a point of the body, the step of command `i` is the body's `turn` at that point, under the
parameters and the PTR of `s`. -/
def RunsBody (i : Instr) (turn : Turn P) (place : P → Seq) (s : State) : Prop :=
  ∀ (u : State) (p : P), u.params = s.params → u.ptr = s.ptr → u.seq = place p → exec i u = turn p u

/-- From `s` command `i` came in `k` steps to the body's point `p`, with the events `es` (newest first); `b` is `s` with
CURSOR where it now is. -/
structure BodyRun (i : Instr) (turn : Turn P) (place : P → Seq) (s : State) (k : Nat) (b : State) (es : List Event)
    (p : P) : Prop where
  underway : Underway i s
  body : RunsBody i turn place s
  moved : Computed s b
  inside : StoresInFb s.params es
  run : ∃ q, stepN k s = .next (b.drawn q es) ∧ exec i (b.drawn q es) = turn p (b.drawn q es)

theorem BodyRun.start (underway : Underway i s) (body : RunsBody i turn place s) (here : exec i s = turn p s) :
    BodyRun i turn place s 0 s [] p :=
  ⟨underway, body, .refl s, nofun, s.seq, rfl, here⟩

namespace BodyRun

/-- One more step. -/
theorem next (h : BodyRun i turn place s k b es p) (once : ∀ q, turn p (b.drawn q es) = .next u) :
    stepN (k + 1) s = .next u := by
  obtain ⟨underway, -, ⟨x, y, rfl⟩, -, q, run, here⟩ := h
  have running : Underway i (State.drawn { s with cursorX := x, cursorY := y } q es) :=
    ⟨underway.busy, underway.host, underway.word⟩
  rw [stepN_add run, stepN_succ (running.step.trans (here.trans (once q)))]
  rfl

/-- One more step, which makes one access and turns to a point of the same command's bodies. -/
theorem turnTo (h : BodyRun i turn place s k b es p) (body : RunsBody i turn' place' s) (moved : Computed s b')
    (fb : ∀ a v, e = .mw a v → inFb s.params a = true)
    (once : ∀ q, turn p (b.drawn q es) = .next (b'.drawn (place' p'') (e :: es))) :
    BodyRun i turn' place' s (k + 1) b' (e :: es) p'' where
  underway := h.underway
  body := body
  moved := moved
  inside := fun a v hv => (List.mem_cons.1 hv).elim (fun he => fb a v he.symm) (h.inside a v)
  run := ⟨place' p'', h.next once, by
    obtain ⟨_, _, rfl⟩ := moved
    exact body _ p'' rfl rfl rfl⟩

/-- One more write of the body, CURSOR moved on with it or not. -/
theorem write (h : BodyRun i turn place s k b es p) (fb : inFb s.params a = true) (moved : Computed s b')
    (once : ∀ q, turn p (b.drawn q es) = .next (b'.drawn (place p') (.mw a v :: es))) :
    BodyRun i turn place s (k + 1) b' (.mw a v :: es) p' :=
  h.turnTo h.body moved (by rintro _ _ ⟨⟩; exact fb) once

/-- One more text read of the body. -/
theorem read (h : BodyRun i turn place s k b es p)
    (once : ∀ q, turn p (b.drawn q es) = .next (b.drawn (place p') (.mr a v :: es))) :
    BodyRun i turn place s (k + 1) b (.mr a v :: es) p' :=
  h.turnTo h.body h.moved nofun once

/-- Text outside FB reads as it did at the start. -/
theorem byteAt_outside (h : BodyRun i turn place s k b es p) (outside : inFb s.params a = false) (q : Seq) :
    (b.drawn q es).byteAt a = s.byteAt a := by
  obtain ⟨_, _, rfl⟩ := h.moved
  exact byteAt_drawn_other q (h.inside.untouched outside)

theorem afterMemRead_outside (h : BodyRun i turn place s k b es p) (outside : inFb s.params a = false) (q : Seq) :
    (b.drawn q es).afterMemRead a = b.drawn q (.mr a (s.byteAt a) :: es) := by
  rw [afterMemRead_eq, h.byteAt_outside outside]
  rfl

theorem admitted (h : BodyRun i turn place s k b es p) (ha : Admitted s a) (q : Seq) : Admitted (b.drawn q es) a := by
  obtain ⟨_, _, rfl⟩ := h.moved
  exact ha

end BodyRun

/-! ### A terminated text -/

section Text
variable {txt : List Byte} {j : Nat}

/-- The text reads as the bytes of `txt`, and 0x00 after the last of them. -/
theorem TerminatedTextAt.byte (h : TerminatedTextAt s txt) (hj : j ≤ txt.length) :
    s.byteAt (s.ptr.toNat + j) = txt.getD j 0x00#8 := by
  obtain ⟨-, -, -, byte⟩ := h.1 j (by simp only [List.length_append, List.length_singleton]; omega)
  rw [byte, List.getD_eq_getElem?_getD, List.getD_eq_getElem?_getD]
  rcases Nat.lt_or_eq_of_le hj with hlt | rfl
  · rw [List.getElem?_append_left hlt]
  · rw [List.getElem?_concat_length, List.getElem?_eq_none (Nat.le_refl _)]
    rfl

theorem TerminatedTextAt.byte_end (h : TerminatedTextAt s txt) : s.byteAt (s.ptr.toNat + txt.length) = 0x00#8 := by
  rw [h.byte (Nat.le_refl _), List.getD_eq_getElem?_getD, List.getElem?_eq_none (Nat.le_refl _), Option.getD_none]

theorem TerminatedTextAt.char (h : TerminatedTextAt s txt) (hj : j < txt.length) : txt.getD j 0x00#8 ≠ 0x00#8 := by
  rw [List.getD_eq_getElem?_getD, List.getElem?_eq_getElem hj, Option.getD_some]
  exact h.2 _ (List.getElem_mem hj)

theorem TerminatedTextAt.admitted (h : TerminatedTextAt s txt) (hj : j ≤ txt.length) :
    Admitted s (s.ptr.toNat + j) :=
  h.1.admitted (by simp only [List.length_append, List.length_singleton]; omega)

theorem TerminatedTextAt.outside (h : TerminatedTextAt s txt) (hj : j ≤ txt.length) :
    inFb s.params (s.ptr.toNat + j) = false := by
  obtain ⟨-, outside, -, -⟩ := h.1 j (by simp only [List.length_append, List.length_singleton]; omega)
  exact outside

end Text

end Sys2Proof.Machine
end

section
/-! A whole CLEAR, PRINTAT and PANIC: FillBody cell by cell and PrintAtBody byte by byte, and the screen their events
leave (41_console R130, R134 to R138). -/

namespace Sys2Proof.Machine

variable {s : State} {i : Instr} {k : Nat} {es : List Event} {a : Nat} {v : Byte}

/-! ### FillBody -/

/-- The events of the first `k` cells of FillBody(ch, attr), in order (41_console R133). -/
def cellsFilled (p : Params) (ch attr : Byte) (k : Nat) : List Event :=
  (List.range k).flatMap fun c => [.mw (p.vgaBase + 2 * c) ch, .mw (p.vgaBase + 2 * c + 1) attr]

theorem cellsFilled_succ (p : Params) (ch attr : Byte) (k : Nat) : cellsFilled p ch attr (k + 1) =
    cellsFilled p ch attr k ++ [.mw (p.vgaBase + 2 * k) ch, .mw (p.vgaBase + 2 * k + 1) attr] := by
  simp [cellsFilled, List.range_succ]

theorem fillEvents_eq_cellsFilled (p : Params) (ch attr : Byte) :
    fillEvents p ch attr = cellsFilled p ch attr (cells p) := rfl

/-- FillBody writes both bytes of each cell. -/
theorem mw_mem_fillEvents {p : Params} {ch attr : Byte} : .mw a v ∈ fillEvents p ch attr ↔
    ∃ c, c < cells p ∧ (a = p.vgaBase + 2 * c ∧ v = ch ∨ a = p.vgaBase + 2 * c + 1 ∧ v = attr) := by
  simp [fillEvents]

theorem fillEvents_char_only {p : Params} {ch attr : Byte} {c : Nat} {w : Byte}
    (h : .mw (p.vgaBase + 2 * c) w ∈ fillEvents p ch attr) : w = ch := by
  obtain ⟨d, _, ⟨_, rfl⟩ | ⟨ha, _⟩⟩ := mw_mem_fillEvents.1 h
  · rfl
  · omega

theorem fillEvents_attr_only {p : Params} {ch attr : Byte} {c : Nat} {w : Byte}
    (h : .mw (p.vgaBase + 2 * c + 1) w ∈ fillEvents p ch attr) : w = attr := by
  obtain ⟨d, _, ⟨ha, _⟩ | ⟨_, rfl⟩⟩ := mw_mem_fillEvents.1 h
  · omega
  · rfl

/-- What a fill leaves in memory (41_console R133). -/
theorem memLookup_filled_char (m : List Host.Cell) {p : Params} (ch attr : Byte) {c : Nat} (hc : c < cells p) :
    memLookup (stored m (fillEvents p ch attr).reverse) (p.vgaBase + 2 * c) = some ch :=
  memLookup_stored m (List.mem_reverse.2 (mw_mem_fillEvents.2 ⟨c, hc, .inl ⟨rfl, rfl⟩⟩))
    fun _ hw => fillEvents_char_only (List.mem_reverse.1 hw)

theorem memLookup_filled_attr (m : List Host.Cell) {p : Params} (ch attr : Byte) {c : Nat} (hc : c < cells p) :
    memLookup (stored m (fillEvents p ch attr).reverse) (p.vgaBase + 2 * c + 1) = some attr :=
  memLookup_stored m (List.mem_reverse.2 (mw_mem_fillEvents.2 ⟨c, hc, .inr ⟨rfl, rfl⟩⟩))
    fun _ hw => fillEvents_attr_only (List.mem_reverse.1 hw)

section Fill
variable {place : FillPt → Seq} {follow : Unit → State → State} {ch attr : Byte}

/-- The fill up to cell `c`, by induction on `c`, in whatever command fills. -/
theorem bodyRun_fill (h : BodyRun i (fillTurn ch attr (land place follow)) place s 0 s [] (.char 0)) {c : Nat}
    (hc : c < cells s.params) :
    BodyRun i (fillTurn ch attr (land place follow)) place s (2 * c) s (cellsFilled s.params ch attr c).reverse
      (.char c) := by
  induction c with
  | zero => exact h
  | succ c ih =>
    have inside : c < cells s.params := Nat.lt_of_succ_lt hc
    have char := (ih inside).write (inFb_cellAddr s.params inside) (.refl s)
      fun q => fillStep_char (s := s.drawn q _) inside
    have attr := char.write (inFb_cellAddr_succ s.params inside) (.refl s) fun q => fillStep_attr (s := s.drawn q _) hc
    rw [cellsFilled_succ, List.reverse_append]
    exact attr

/-- The fill up to the last write of the body. -/
theorem bodyRun_fill_last (h : BodyRun i (fillTurn ch attr (land place follow)) place s 0 s [] (.char 0)) {c : Nat}
    (hc : c + 1 = cells s.params) :
    BodyRun i (fillTurn ch attr (land place follow)) place s (2 * c + 1) s
      (.mw (s.params.vgaBase + 2 * c) ch :: (cellsFilled s.params ch attr c).reverse) (.attr c) :=
  have inside : c < cells s.params := Nat.lt_of_succ_le (Nat.le_of_eq hc)
  (bodyRun_fill h inside).write (inFb_cellAddr s.params inside) (.refl s)
    fun q => fillStep_char (s := s.drawn q _) inside

end Fill

/-- The events of a whole fill, the last cell's named. -/
theorem fillEvents_reverse {p : Params} {c : Nat} (hc : c + 1 = cells p) (ch attr : Byte) :
    (fillEvents p ch attr).reverse =
      .mw (p.vgaBase + 2 * c + 1) attr :: .mw (p.vgaBase + 2 * c) ch :: (cellsFilled p ch attr c).reverse := by
  rw [fillEvents_eq_cellsFilled, ← hc, cellsFilled_succ, List.reverse_append]
  rfl

/-- Outside FB a fill writes nothing. -/
theorem fillEvents_storesInFb (p : Params) (ch attr : Byte) : StoresInFb p (fillEvents p ch attr).reverse := by
  intro a v h
  obtain ⟨c, hc, ⟨rfl, _⟩ | ⟨rfl, _⟩⟩ := mw_mem_fillEvents.1 (List.mem_reverse.1 h)
  · exact inFb_cellAddr p hc
  · exact inFb_cellAddr_succ p hc

/-! ### CLEAR -/

/-- A whole CLEAR. -/
theorem stepN_clear (started : Started s .clear) (hcells : 0 < cells s.params) :
    stepN (fbBytes s.params) s = .next (s.drawn .empty (fillEvents s.params 0x00#8 0x00#8).reverse).finish := by
  obtain ⟨c, hc⟩ : ∃ c, c + 1 = cells s.params := ⟨cells s.params - 1, Nat.sub_add_cancel hcells⟩
  have underway := started.underway
  obtain ⟨-, hq, -⟩ := started
  have start : BodyRun .clear (fillTurn 0x00#8 0x00#8 clearLand) .clear s 0 s [] (.char 0) :=
    .start underway (fun u p _ _ here => exec_clear_at (.inl here)) (exec_clear_at (.inr ⟨hq, rfl⟩))
  have filled := bodyRun_fill_last (place := .clear) start hc
  rw [fbBytes, ← hc, Nat.mul_add_one, fillEvents_reverse hc]
  exact filled.next fun q => fillStep_last (s := s.drawn q _) hc

/-- Settles O28: the events of a fill with 0x00, and the memory they leave. -/
theorem clearBlanksTheScreen : Obligations.ClearBlanksTheScreen := by
  intro s started hcells
  exact ⟨_, stepN_clear started hcells,
    fun c hc => ⟨memLookup_filled_char s.mem _ _ hc, memLookup_filled_attr s.mem _ _ hc⟩,
    fun a outside => memLookup_stored_other s.mem ((fillEvents_storesInFb _ _ _).untouched outside)⟩

/-! ### PrintAtBody -/

/-- The events of the first `k` characters of PrintAtBody from cell `c` on, in order (41_console R137). -/
def charsPrintedAt (p : Params) (a c : Nat) (txt : List Byte) (k : Nat) : List Event :=
  (List.range k).flatMap fun j =>
    [.mr (a + j) (txt.getD j 0x00#8), .mw (p.vgaBase + 2 * (c + j)) (txt.getD j 0x00#8)]

theorem charsPrintedAt_succ (p : Params) (a c : Nat) (txt : List Byte) (k : Nat) : charsPrintedAt p a c txt (k + 1) =
    charsPrintedAt p a c txt k ++
      [.mr (a + k) (txt.getD k 0x00#8), .mw (p.vgaBase + 2 * (c + k)) (txt.getD k 0x00#8)] := by
  simp [charsPrintedAt, List.range_succ]

theorem printAtEvents_eq_charsPrintedAt (p : Params) (a c : Nat) (txt : List Byte) :
    printAtEvents p a c txt = charsPrintedAt p a c txt txt.length ++ [.mr (a + txt.length) 0x00#8] := rfl

/-- PrintAtBody writes the character bytes of its cells (41_console R137). -/
theorem mw_mem_printAtEvents {p : Params} {c x : Nat} {txt : List Byte} : .mw a v ∈ printAtEvents p x c txt ↔
    ∃ j, j < txt.length ∧ a = p.vgaBase + 2 * (c + j) ∧ v = txt.getD j 0x00#8 := by
  simp [printAtEvents]

section PrintAt
variable {place : PrintAtPt → Seq} {follow : Unit → State → State} {c : Nat} {txt : List Byte}

/-- A text that fits, up to its byte `j`, by induction on `j`, in whatever command prints it. -/
theorem bodyRun_printAt
    (h : BodyRun i (printAtTurn (.mem s.ptr.toNat) (land place follow)) place s k s es (.read c 0))
    (text : TerminatedTextAt s txt) (fits : c + txt.length ≤ cells s.params) {j : Nat} (hj : j ≤ txt.length) :
    BodyRun i (printAtTurn (.mem s.ptr.toNat) (land place follow)) place s (k + 2 * j) s
      ((charsPrintedAt s.params s.ptr.toNat c txt j).reverse ++ es) (.read (c + j) j) := by
  induction j with
  | zero => exact h
  | succ j ih =>
    have hlt : j < txt.length := hj
    have before := ih (Nat.le_of_lt hlt)
    have byte := text.byte (Nat.le_of_lt hlt)
    have outside := text.outside (Nat.le_of_lt hlt)
    have hc : c + j < cells s.params := by omega
    have read := before.read fun q => by
      rw [printAtStep_read (before.admitted (text.admitted (Nat.le_of_lt hlt)) q)
        ((before.byteAt_outside outside q).trans byte) (text.char hlt) hc, before.afterMemRead_outside outside, byte]
      rfl
    have char := read.write (inFb_cellAddr s.params hc) (.refl s) fun q =>
      printAtStep_char (s := s.drawn q _) hc (before.admitted (text.admitted hj) q)
    rw [charsPrintedAt_succ, List.reverse_append]
    exact char

/-- A text that fits, to the end of the command that prints it. -/
theorem stepN_printAt
    (h : BodyRun i (printAtTurn (.mem s.ptr.toNat) (land place fun _ t => t.finish)) place s k s es (.read c 0))
    (text : TerminatedTextAt s txt) (fits : c + txt.length ≤ cells s.params) :
    stepN (k + (2 * txt.length + 1)) s =
      .next (s.drawn .empty ((printAtEvents s.params s.ptr.toNat c txt).reverse ++ es)).finish := by
  have whole := bodyRun_printAt h text fits (Nat.le_refl _)
  have outside := text.outside (Nat.le_refl _)
  refine whole.next fun q => ?_
  rw [printAtStep_end (whole.admitted (text.admitted (Nat.le_refl _)) q)
    ((whole.byteAt_outside outside q).trans text.byte_end), whole.afterMemRead_outside outside, text.byte_end,
    printAtEvents_eq_charsPrintedAt, List.reverse_append]
  rfl

end PrintAt

/-- What a text leaves in memory: its characters in their cells (41_console R137). -/
theorem memLookup_printedAt (m : List Host.Cell) (p : Params) (x c : Nat) (txt : List Byte) {j : Nat}
    (hj : j < txt.length) :
    memLookup (stored m (printAtEvents p x c txt).reverse) (p.vgaBase + 2 * (c + j)) = some (txt.getD j 0x00#8) := by
  refine memLookup_stored m (List.mem_reverse.2 (mw_mem_printAtEvents.2 ⟨j, hj, rfl, rfl⟩)) fun w hw => ?_
  obtain ⟨l, _, ha, rfl⟩ := mw_mem_printAtEvents.1 (List.mem_reverse.1 hw)
  rw [show l = j by omega]

/-- Every other byte is as it was. -/
theorem memLookup_printedAt_other (m : List Host.Cell) {p : Params} (x : Nat) {c : Nat} {txt : List Byte}
    (other : ∀ j, j < txt.length → a ≠ p.vgaBase + 2 * (c + j)) :
    memLookup (stored m (printAtEvents p x c txt).reverse) a = memLookup m a := by
  refine memLookup_stored_other m fun v hv => ?_
  obtain ⟨j, hj, ha, -⟩ := mw_mem_printAtEvents.1 (List.mem_reverse.1 hv)
  exact other j hj ha

/-! ### PRINTAT -/

theorem runsBody_printat (s : State) (col row : Byte) :
    RunsBody (.printat col row) (printAtTurn (.mem s.ptr.toNat) printatLand) .printat s := fun u p _ hptr here => by
  rw [exec_printat_from (.inl here), ptrText, hptr]

/-- Settles O35: the events of a text that fits, and the memory they leave. -/
theorem printatWritesOnlyCharacterBytes : Obligations.PrintatWritesOnlyCharacterBytes := by
  intro s col row txt started text hcol hrow fits
  have underway := started.underway
  obtain ⟨-, hq, -⟩ := started
  have start := BodyRun.start underway (runsBody_printat s col row) (exec_printat_from (.inr ⟨hq, hcol, hrow, rfl⟩))
  have whole := stepN_printAt (place := .printat) start text fits
  rw [Nat.zero_add, List.append_nil] at whole
  exact ⟨_, whole, fun j hj => memLookup_printedAt s.mem s.params _ _ txt hj,
    fun a other => memLookup_printedAt_other s.mem _ other⟩

/-! ### PANIC -/

theorem runsBody_panicFill (s : State) :
    RunsBody .panic (fillTurn s.params.panicFillChar s.params.panicAttr panicFillLand) .panicFill s :=
  fun u p hpar _ here => by rw [exec_panic_fill_at (.inl here), hpar]

theorem runsBody_panicMsg (s : State) :
    RunsBody .panic (printAtTurn (.mem s.ptr.toNat) panicMsgLand) .panicMsg s := fun u p _ hptr here => by
  rw [exec_panic_msg here, ptrText, hptr, printAtTurn]

/-- PANIC's fill, and the turn to its message (41_console R138). -/
theorem Started.panicFilled (started : Started s .panic) (admitted : Admitted s s.ptr.toNat)
    (hcol : s.params.panicCol < s.params.cols) (hrow : s.params.panicRow < s.params.rows) :
    BodyRun .panic (printAtTurn (.mem s.ptr.toNat) panicMsgLand) .panicMsg s (fbBytes s.params) s
      (fillEvents s.params s.params.panicFillChar s.params.panicAttr).reverse
      (.read (panicCell s.params) 0) := by
  have hcells := cells_pos (Nat.zero_lt_of_lt hcol) (Nat.zero_lt_of_lt hrow)
  obtain ⟨c, hc⟩ : ∃ c, c + 1 = cells s.params := ⟨cells s.params - 1, Nat.sub_add_cancel hcells⟩
  have underway := started.underway
  obtain ⟨-, hq, -⟩ := started
  have start := BodyRun.start underway (runsBody_panicFill s) (exec_panic_fill_at (.inr ⟨hq, rfl⟩))
  have filled := bodyRun_fill_last (place := .panicFill) start hc
  rw [fbBytes, ← hc, Nat.mul_add_one, fillEvents_reverse hc]
  have fb := inFb_cellAddr_succ s.params (Nat.le_of_eq hc)
  refine filled.turnTo (runsBody_panicMsg s) (.refl s) (by rintro _ _ ⟨⟩; exact fb) fun q => ?_
  exact (fillStep_last (s := s.drawn q _) hc).trans
    (congrArg _ (panicFillLand_ended (s := (s.drawn q _).afterMemWrite _ _) hcol hrow admitted))

/-- Settles O37: the events of the fill and of the message, and the memory they leave, the message's over the
fill's. -/
theorem panicFillsTheScreenAndReturns : Obligations.PanicFillsTheScreenAndReturns := by
  intro s txt p k started text hcol hrow fits
  have whole := stepN_printAt (place := .panicMsg)
    (started.panicFilled (text.admitted (Nat.zero_le _)) hcol hrow) text fits
  rw [← drawn_drawn s .empty] at whole
  refine ⟨_, whole, fun c hc => ?attr, fun c hc => ?char, fun a outside => ?outside⟩
  case attr =>
    have untouched : ∀ j, j < txt.length → p.vgaBase + 2 * c + 1 ≠ p.vgaBase + 2 * (k + j) := by omega
    exact (memLookup_printedAt_other _ _ untouched).trans (memLookup_filled_attr s.mem _ _ hc)
  case char =>
    split
    case isTrue inside =>
      have printed := memLookup_printedAt (stored s.mem (fillEvents p p.panicFillChar p.panicAttr).reverse) p
        s.ptr.toNat k txt (j := c - k) (by omega)
      rwa [Nat.add_sub_cancel' inside.1] at printed
    case isFalse elsewhere =>
      have untouched : ∀ j, j < txt.length → p.vgaBase + 2 * c ≠ p.vgaBase + 2 * (k + j) := by omega
      exact (memLookup_printedAt_other _ _ untouched).trans (memLookup_filled_char s.mem _ _ hc)
  case outside =>
    have untouched : ∀ j, j < txt.length → a ≠ p.vgaBase + 2 * (k + j) := fun j hj ha => by
      have inside : inFb p a = true := ha ▸ inFb_cellAddr p (c := k + j) (by omega)
      exact Bool.false_ne_true (outside.symm.trans inside)
    exact (memLookup_printedAt_other _ _ untouched).trans
      (memLookup_stored_other s.mem ((fillEvents_storesInFb _ _ _).untouched outside))

end Sys2Proof.Machine
end

section
/-! A whole PRINT: its text character by character, the cursor it moves to, and the screen its events leave (41_console
R131, R132, R139, R141). -/

namespace Sys2Proof.Machine

variable {s : State} {a : Nat} {v : Byte} {txt : List Byte}

/-! ### The events of a print -/

/-- The events of the first `k` characters of PrintBody from row `y` on, in order (41_console R132, R141). -/
def charsPrinted (p : Params) (a y : Nat) (txt : List Byte) (k : Nat) : List Event :=
  (List.range k).flatMap fun j =>
    [.mr (a + j) (txt.getD j 0x00#8), .mw (p.vgaBase + 2 * printCell p y j) (txt.getD j 0x00#8),
      .mw (p.vgaBase + 2 * printCell p y j + 1) p.printAttr]

theorem charsPrinted_succ (p : Params) (a y : Nat) (txt : List Byte) (k : Nat) : charsPrinted p a y txt (k + 1) =
    charsPrinted p a y txt k ++
      [.mr (a + k) (txt.getD k 0x00#8), .mw (p.vgaBase + 2 * printCell p y k) (txt.getD k 0x00#8),
        .mw (p.vgaBase + 2 * printCell p y k + 1) p.printAttr] := by
  simp [charsPrinted, List.range_succ]

theorem printEvents_eq_charsPrinted (p : Params) (a y : Nat) (txt : List Byte) :
    printEvents p a y txt = charsPrinted p a y txt txt.length ++ [.mr (a + txt.length) 0x00#8] := rfl

/-- PrintBody writes the character and PRINT_ATTR in each of its cells (41_console R141). -/
theorem mw_mem_printEvents {p : Params} {x y : Nat} : .mw a v ∈ printEvents p x y txt ↔
    ∃ j, j < txt.length ∧ (a = p.vgaBase + 2 * printCell p y j ∧ v = txt.getD j 0x00#8 ∨
      a = p.vgaBase + 2 * printCell p y j + 1 ∧ v = p.printAttr) := by
  simp [printEvents]

/-! ### The run -/

/-- From `s`, where it started, PRINT came in `k` steps to the point `p` of PrintBody, with the events `es` (newest
first); `b` is `s` with CURSOR where it now is. -/
abbrev PrintRun (s : State) : Nat → State → List Event → PrintPt → Prop :=
  BodyRun .print (printTurn (.mem s.ptr.toNat) (land .print fun _ t => t.finish)) .print s

theorem Started.printRun (started : Started s .print) : PrintRun s 0 s [] (.read 0 0 s.cursorY.toNat) := by
  have underway := started.underway
  obtain ⟨-, hq, -⟩ := started
  refine .start underway (fun u p _ hptr here => ?_) (exec_printing_at (.inr ⟨hq, rfl⟩))
  rw [exec_printing_at (.inl here), ptrText, hptr]
  rfl

/-- The position of character `j` of a print from row `y` is one of the screen (41_console R144). -/
theorem printCell_onScreen {p : Params} (hcols : 0 < p.cols) (hrows : 0 < p.rows) (y j : Nat) :
    printCell p y j % p.cols < p.cols ∧ printCell p y j / p.cols < p.rows := by
  refine ⟨Nat.mod_lt _ hcols, ?_⟩
  rw [printCell_div hcols]
  exact Nat.mod_lt _ hrows

/-- A print starts at column 0 of row CURSOR_Y. -/
theorem printCell_zero {p : Params} {y : Nat} (hcols : 0 < p.cols) (hy : y < p.rows) :
    printCell p y 0 % p.cols = 0 ∧ printCell p y 0 / p.cols = y := by
  rw [printCell_mod, printCell_div hcols, Nat.zero_mod, Nat.zero_div, Nat.add_zero, Nat.mod_eq_of_lt hy]
  exact ⟨rfl, rfl⟩

/-- One character of the text: its text read, its two writes, the cursor moved on. -/
theorem PrintRun.char {b : State} {es : List Event} {k j col row : Nat}
    (h : PrintRun s k b es (.read j col row)) (text : TerminatedTextAt s txt) (hj : j < txt.length)
    (hcol : col < s.params.cols) (hrow : row < s.params.rows) :
    ∃ b', PrintRun s (k + 3) b'
      (.mw (s.params.vgaBase + 2 * (row * s.params.cols + col) + 1) s.params.printAttr ::
        .mw (s.params.vgaBase + 2 * (row * s.params.cols + col)) (txt.getD j 0x00#8) ::
        .mr (s.ptr.toNat + j) (txt.getD j 0x00#8) :: es)
      (.read (j + 1) (advance s.params col row).1 (advance s.params col row).2) := by
  have byte := text.byte (Nat.le_of_lt hj)
  have outside := text.outside (Nat.le_of_lt hj)
  have inside := cellIndex_lt hcol hrow
  have read := h.read fun q => by
    rw [printStep_read (h.admitted (text.admitted (Nat.le_of_lt hj)) q)
      ((h.byteAt_outside outside q).trans byte) (text.char hj), h.afterMemRead_outside outside, byte]
    rfl
  obtain ⟨x, y, rfl⟩ := h.moved
  have char := read.write (inFb_cellAddr s.params inside) read.moved fun q =>
    printStep_char (s := State.drawn { s with cursorX := x, cursorY := y } q _) (.mem s.ptr.toNat) hcol hrow
  have moved := read.moved.trans (.setCursor _ (advance s.params col row).1 (advance s.params col row).2)
  exact ⟨_, char.write (inFb_cellAddr_succ s.params inside) moved fun q =>
    printStep_attr_mem (place := .print) (s := State.drawn { s with cursorX := x, cursorY := y } q _) hcol hrow
      (char.admitted (text.admitted hj) q)⟩

/-- The first `k` characters of the text, by induction on `k`: character `k` comes next, at its cell (41_console
R141). -/
theorem printRun_chars (started : Started s .print) (text : TerminatedTextAt s txt) (hcols : 0 < s.params.cols)
    (hy : s.cursorY.toNat < s.params.rows) {k : Nat} (hk : k ≤ txt.length) :
    ∃ b, PrintRun s (3 * k) b (charsPrinted s.params s.ptr.toNat s.cursorY.toNat txt k).reverse
      (.read k (printCell s.params s.cursorY.toNat k % s.params.cols)
        (printCell s.params s.cursorY.toNat k / s.params.cols)) := by
  have hrows := Nat.zero_lt_of_lt hy
  induction k with
  | zero =>
    obtain ⟨col, row⟩ := printCell_zero hcols hy
    rw [col, row]
    exact ⟨s, started.printRun⟩
  | succ k ih =>
    obtain ⟨b, before⟩ := ih (Nat.le_of_succ_le hk)
    obtain ⟨hcol, hrow⟩ := printCell_onScreen hcols hrows s.cursorY.toNat k
    obtain ⟨b', after⟩ := before.char text hk hcol hrow
    rw [advance_printCell hcols hrows, Nat.div_add_mod'] at after
    rw [charsPrinted_succ, List.reverse_append]
    exact ⟨b', after⟩

/-- A whole PRINT: its events, what they store, and the cursor at column 0 of the row after the last character's
(41_console R132, R139). -/
theorem stepN_print (started : Started s .print) (text : TerminatedTextAt s txt) (hcols : 0 < s.params.cols)
    (hy : s.cursorY.toNat < s.params.rows) : stepN (3 * txt.length + 1) s =
      .next ((s.drawn .empty (printEvents s.params s.ptr.toNat s.cursorY.toNat txt).reverse).setCursor 0
        ((s.cursorY.toNat + txt.length / s.params.cols + 1) % s.params.rows)).finish := by
  obtain ⟨b, whole⟩ := printRun_chars started text hcols hy (Nat.le_refl _)
  obtain ⟨-, hrow⟩ := printCell_onScreen hcols (Nat.zero_lt_of_lt hy) s.cursorY.toNat txt.length
  have outside := text.outside (Nat.le_refl _)
  have seen := fun q => (whole.byteAt_outside outside q).trans text.byte_end
  refine whole.next fun q => ?_
  have admitted := whole.admitted (text.admitted (Nat.le_refl _)) q
  have after := whole.afterMemRead_outside outside q
  obtain ⟨x, y, rfl⟩ := whole.moved
  rw [printStep_end (s := State.drawn { s with cursorX := x, cursorY := y } q _) admitted (seen q) hrow,
    after, text.byte_end, printEvents_eq_charsPrinted, List.reverse_append, printCell_div hcols,
    ← Nat.mod_add_mod (s.cursorY.toNat + txt.length / s.params.cols)]
  rfl

/-- Settles O30: the cursor of a whole PRINT. -/
theorem printMovesTheCursor : Obligations.PrintMovesTheCursor := by
  intro s txt started text hcols hy
  exact ⟨_, stepN_print started text hcols hy, rfl, rfl, rfl, rfl⟩

/-- Settles O31: the events of a whole PRINT, and its cursor where the text fills its rows. -/
theorem printWritesCharacterJAtItsCell : Obligations.PrintWritesCharacterJAtItsCell := by
  intro s txt started text hcols hy
  refine ⟨_, stepN_print started text hcols hy, rfl, fun k full => ?_⟩
  rw [full, Nat.mul_div_cancel_left k hcols]
  exact ⟨rfl, rfl⟩

/-! ### The screen after a print -/

/-- Character `j` is the only one at its cell where the text has at most CELLS characters (41_console R141). -/
theorem printEvents_char_only {p : Params} {x y j : Nat} {w : Byte} (fits : txt.length ≤ cells p)
    (hj : j < txt.length) (h : .mw (p.vgaBase + 2 * printCell p y j) w ∈ printEvents p x y txt) :
    w = txt.getD j 0x00#8 := by
  obtain ⟨l, hl, ⟨ha, rfl⟩ | ⟨ha, _⟩⟩ := mw_mem_printEvents.1 h
  · have same : printCell p y j = printCell p y l := by omega
    rw [printCell_inj (Nat.lt_of_lt_of_le hj fits) (Nat.lt_of_lt_of_le hl fits) same]
  · omega

theorem printEvents_attr_only {p : Params} {x y c : Nat} {w : Byte}
    (h : .mw (p.vgaBase + 2 * c + 1) w ∈ printEvents p x y txt) : w = p.printAttr := by
  obtain ⟨l, _, ⟨ha, _⟩ | ⟨_, rfl⟩⟩ := mw_mem_printEvents.1 h
  · omega
  · rfl

/-- Settles O32: the memory that the events of a whole PRINT leave. -/
theorem printLeavesTheScreen : Obligations.PrintLeavesTheScreen := by
  intro s txt started text hcols hy fits
  refine ⟨_, stepN_print started text hcols hy, fun j hj => ⟨?char, ?attr⟩, fun a other => ?other, rfl, rfl, rfl,
    rfl⟩
  case char =>
    exact byteAt_drawn (s := s) .empty (List.mem_reverse.2 (mw_mem_printEvents.2 ⟨j, hj, .inl ⟨rfl, rfl⟩⟩))
      fun _ hw => printEvents_char_only fits hj (List.mem_reverse.1 hw)
  case attr =>
    exact byteAt_drawn (s := s) .empty (List.mem_reverse.2 (mw_mem_printEvents.2 ⟨j, hj, .inr ⟨rfl, rfl⟩⟩))
      fun _ hw => printEvents_attr_only (List.mem_reverse.1 hw)
  case other =>
    refine byteAt_drawn_other (s := s) .empty fun v hv => ?_
    obtain ⟨j, hj, ⟨ha, _⟩ | ⟨ha, _⟩⟩ := mw_mem_printEvents.1 (List.mem_reverse.1 hv)
    · exact (other j hj).1 ha
    · exact (other j hj).2 ha

end Sys2Proof.Machine
end

section
/-! BOOT, one access a step: the bodies its SEQ stands in, the turn from each to the next, and DONE at the end (42_boot
R170, R171). -/

namespace Sys2Proof.Machine

variable {s : State} {c i : Nat}

/-! ### The body BOOT's SEQ stands in -/

/-- BOOT's next access is that of point `p` of its ClearBody. -/
def BootClearAt (p : FillPt) (s : State) : Prop := s.seq = .bootClear p ∨ s.seq = .empty ∧ p = .char 0

theorem exec_boot_clear {p : FillPt} (h : BootClearAt p s) :
    exec .boot s = fillTurn 0x00#8 0x00#8 bootClearLand p s := by
  rcases h with hq | ⟨hq, rfl⟩ <;> simp only [exec, execBoot, hq, fillTurn]

theorem exec_boot_init {p : InitPt} (hq : s.seq = .bootInit p) :
    exec .boot s = runAccess initAccess initAfter bootInitLand p s := by
  simp only [exec, execBoot, hq]

theorem exec_boot_fill {p : FillPt} (hq : s.seq = .bootFill p) :
    exec .boot s = fillTurn s.params.panicFillChar s.params.panicAttr bootFillLand p s := by
  simp only [exec, execBoot, hq, fillTurn]

theorem exec_boot_msg {p : PrintAtPt} (hq : s.seq = .bootMsg p) :
    exec .boot s = printAtTurn (.rom s.params.panicMsg) bootMsgLand p s := by
  simp only [exec, execBoot, hq, printAtTurn, panicText]

theorem exec_boot_print {p : PrintPt} (hq : s.seq = .bootPrint p) :
    exec .boot s = printTurn (.rom s.params.bootMsg) bootPrintLand p s := by
  simp only [exec, execBoot, hq, printTurn, bootText]

theorem exec_boot_send {p : SendPt} (hq : s.seq = .bootSend p) : exec .boot s =
    runAccess (sendAccess (bootText s)) (sendAfter (bootText s) s.params.bootMsg.length) bootSendLand p s := by
  simp only [exec, execBoot, hq]

/-! ### Text from Rom (20_memory R64): no access of its own -/

section Rom
variable {str : List Byte} {col row : Nat} {b : Byte}

/-- Past its last byte a Rom text reads 0x00 (20_memory R64). -/
theorem rom_end (h : str.length ≤ i) : str.getD i 0x00#8 = 0x00#8 := by
  rw [List.getD_eq_getElem?_getD, List.getElem?_eq_none h, Option.getD_none]

theorem printStep_attr_rom {place : PrintPt → Seq} {follow : Unit → State → State} (hcol : col < s.params.cols)
    (hrow : row < s.params.rows) (char : str.getD (i + 1) 0x00#8 ≠ 0x00#8) :
    printTurn (.rom str) (land place follow) (.attr i col row) s =
      .next (((s.afterMemWrite (s.params.vgaBase + 2 * (row * s.params.cols + col) + 1) s.params.printAttr).setCursor
        (advance s.params col row).1 (advance s.params col row).2).setSeq
          (place (.char (i + 1) (advance s.params col row).1 (advance s.params col row).2
            (str.getD (i + 1) 0x00#8)))) := by
  rw [printStep_attr _ hcol hrow, printText_rom, printByte_char char]
  rfl

/-- After the last character of a Rom text comes the row advance of its end (41_console R132). -/
theorem printStep_attr_rom_end {place : PrintPt → Seq} {follow : Unit → State → State} (hcol : col < s.params.cols)
    (hrow : row < s.params.rows) (last : str.length ≤ i + 1) :
    printTurn (.rom str) (land place follow) (.attr i col row) s =
      .next (follow () ((s.afterMemWrite (s.params.vgaBase + 2 * (row * s.params.cols + col) + 1)
        s.params.printAttr).setCursor 0 (((advance s.params col row).2 + 1) % s.params.rows))) := by
  obtain ⟨-, onScreen⟩ := advance_lt hcol hrow
  rw [printStep_attr _ hcol hrow, printText_rom, rom_end last, printByte_terminator,
    State.setCursor_params, State.afterMemWrite_params, wrapRow_eq_mod onScreen]
  rfl

theorem printAtStep_char_rom {place : PrintAtPt → Seq} {follow : Unit → State → State} (hc : c + 1 < cells s.params)
    (char : str.getD (i + 1) 0x00#8 ≠ 0x00#8) :
    printAtTurn (.rom str) (land place follow) (.char c i b) s =
      .next ((s.afterMemWrite (s.params.vgaBase + 2 * c) b).setSeq
        (place (.char (c + 1) (i + 1) (str.getD (i + 1) 0x00#8)))) := by
  rw [printAtTurn, runAccess_memWrite rfl (inFb_cellAddr s.params (Nat.lt_of_succ_lt hc)), printAtAfter,
    printAtText_rom, printAtByte_char (s := s.afterMemWrite _ _) char hc]
  rfl

theorem printAtStep_char_rom_end {place : PrintAtPt → Seq} {follow : Unit → State → State} (hc : c < cells s.params)
    (last : str.length ≤ i + 1) :
    printAtTurn (.rom str) (land place follow) (.char c i b) s =
      .next (follow () (s.afterMemWrite (s.params.vgaBase + 2 * c) b)) := by
  rw [printAtTurn, runAccess_memWrite rfl (inFb_cellAddr s.params hc), printAtAfter, printAtText_rom,
    rom_end last, printAtByte_terminator]
  rfl

end Rom

/-! ### The turns from one phase to the next -/

/-- Where PrintBody ends, SendBody's first poll comes next. -/
theorem bootPrintLand_ended (s : State) :
    bootPrintLand (s, .ended ()) = s.setSeq (.bootSend (sendHead s.params.bootMsg.length 0)) := by
  rw [bootPrintLand, land_ended, sendLoop_eq]
  rfl

/-- `s` with BOOT's Print phase entered: PrintBody(Rom(BOOT_MSG)). -/
def State.startBootPrint (s : State) : State := bootPrintLand (printStart (bootText s) s)

theorem startBootPrint_char (char : s.params.bootMsg.getD 0 0x00#8 ≠ 0x00#8) :
    s.startBootPrint = s.setSeq (.bootPrint (.char 0 0 s.cursorY.toNat (s.params.bootMsg.getD 0 0x00#8))) := by
  rw [State.startBootPrint, printStart, bootText, printText_rom, printByte_char char]
  rfl

/-- An empty BOOT_MSG advances the row and goes on to SendBody's CR LF (41_console R140). -/
theorem startBootPrint_empty (empty : s.params.bootMsg = []) (hrow : s.cursorY.toNat < s.params.rows) :
    s.startBootPrint = (s.setCursor 0 ((s.cursorY.toNat + 1) % s.params.rows)).setSeq (.bootSend .pollCr) := by
  rw [State.startBootPrint, printStart, bootText, printText_rom, empty, List.getD_nil, printByte_terminator,
    wrapRow_eq_mod hrow, bootPrintLand_ended, State.setCursor_params, empty]
  rfl

/-- `s` with the message of BOOT's PanicBody entered: PrintAtBody(PANIC_COL, PANIC_ROW, Rom(PANIC_MSG)). -/
def State.startBootMsg (s : State) : State :=
  bootMsgLand (printAtStart s.params.panicCol s.params.panicRow (panicText s) s)

theorem startBootMsg_char (hcol : s.params.panicCol < s.params.cols) (hrow : s.params.panicRow < s.params.rows)
    (char : s.params.panicMsg.getD 0 0x00#8 ≠ 0x00#8) :
    s.startBootMsg = s.setSeq (.bootMsg (.char (panicCell s.params) 0 (s.params.panicMsg.getD 0 0x00#8))) := by
  rw [State.startBootMsg, printAtStart_ok hcol hrow, panicText, printAtText_rom,
    printAtByte_char char (cellIndex_lt hcol hrow)]
  rfl

/-! ### ClearBody and InitBody -/

/-- A write of InitBody that is not its last. -/
theorem exec_boot_init_write {p q : InitPt} {r : UartReg} {v : Byte} (hq : s.seq = .bootInit p)
    (access : initAccess p s = some (.portWrite r v)) (next : ∀ w, initAfter p 0x00#8 w = (w, .goto q)) :
    exec .boot s = .next ((s.afterPortWrite r v).setSeq (.bootInit q)) := by
  rw [exec_boot_init hq, runAccess_portWrite access, next]
  rfl

/-- InitBody writes at every point but its readback, and goes on from it at every point but the last (40_uart R103). -/
theorem initPt_write {q : InitPt} (rbr : q ≠ .rbr) (mcrFinal : q ≠ .mcrFinal) (s : State) :
    ∃ r v q', initAccess q s = some (.portWrite r v) ∧ ∀ w, initAfter q 0x00#8 w = (w, .goto q') := by
  cases q with
  | rbr => exact absurd rfl rbr
  | mcrFinal => exact absurd rfl mcrFinal
  | _ => exact ⟨_, _, _, rfl, fun _ => rfl⟩

/-- BOOT's InitBody makes the accesses of INIT's (42_boot R170). -/
theorem exec_boot_init_as_init {q q' : InitPt} {t : State} (hq : s.seq = .bootInit q) (rbr : q ≠ .rbr)
    (mcrFinal : q ≠ .mcrFinal) (init : exec .init { s with seq := .init q } = .next t) (hq' : t.seq = .init q') :
    exec .boot s = .next { t with seq := .bootInit q' } := by
  obtain ⟨r, v, n, access, next⟩ := initPt_write rbr mcrFinal s
  have write := exec_init_write (s := s.setSeq (.init q)) (.inl rfl) ((initAccess_congr q rfl).trans access) next
  cases write.symm.trans init
  cases hq'
  exact exec_boot_init_write hq access next

theorem exec_boot_rbr_match (hq : s.seq = .bootInit .rbr) (echo : s.portAnswer .data = s.params.testByte) :
    exec .boot s = .next ((s.afterPortRead .data).setSeq (.bootInit .mcrFinal)) := by
  rw [exec_boot_init hq, runAccess_portRead rfl, initAfter_rbr_match (s := s.afterPortRead .data) echo]
  rfl

theorem exec_boot_rbr_mismatch (hq : s.seq = .bootInit .rbr) (noEcho : s.portAnswer .data ≠ s.params.testByte) :
    exec .boot s = .next (((s.afterPortRead .data).setInitOk false).setSeq (.bootFill (.char 0))) := by
  rw [exec_boot_init hq, runAccess_portRead rfl, initAfter_rbr_mismatch (s := s.afterPortRead .data) noEcho]
  rfl

theorem exec_boot_mcrFinal (hq : s.seq = .bootInit .mcrFinal) : exec .boot s =
    .next ((s.afterPortWrite .modemControl s.params.mcrFinal).setInitOk true).startBootPrint := by
  rw [exec_boot_init hq, runAccess_portWrite rfl]
  rfl

/-- Settles O40, access by access, and after the last of InitBody the start of the Print phase. -/
theorem bootClearsThenInitializes : Obligations.BootClearsThenInitializes := by
  intro s c p
  refine ⟨fun hc hq => ?clearChar, fun hc hq => ?clearAttr, fun hq => exec_boot_init_write hq rfl fun _ => rfl,
    fun q q' t => exec_boot_init_as_init, fun hq => exec_boot_init_write hq rfl fun _ => rfl, exec_boot_rbr_match,
    exec_boot_rbr_mismatch, fun b rest hq msg char => ?print, fun hq empty hrow => ?emptyPrint⟩
  case clearChar =>
    rw [exec_boot_clear (hq.imp_right fun ⟨empty, first⟩ => ⟨empty, by rw [first]⟩)]
    exact fillStep_char (place := .bootClear) hc
  case clearAttr =>
    rw [exec_boot_clear (.inl hq)]
    split
    case isTrue more => exact fillStep_attr (place := .bootClear) more
    case isFalse last => exact fillStep_last (place := .bootClear) (Nat.le_antisymm hc (Nat.not_lt.1 last))
  case print =>
    have first : p.bootMsg.getD 0 0x00#8 = b := by rw [msg, List.getD_cons_zero]
    rw [exec_boot_mcrFinal hq, startBootPrint_char (s := (s.afterPortWrite _ _).setInitOk true) (first ▸ char), ← first]
    rfl
  case emptyPrint =>
    rw [exec_boot_mcrFinal hq, startBootPrint_empty (s := (s.afterPortWrite _ _).setInitOk true) empty hrow]
    rfl

/-! ### PanicBody and PrintBody -/

/-- The last write of the fill of PanicBody, and the turn to its message. -/
theorem exec_boot_fill_last (hc : c + 1 = cells s.params) (hq : s.seq = .bootFill (.attr c)) :
    exec .boot s =
      .next (s.afterMemWrite (s.params.vgaBase + 2 * c + 1) s.params.panicAttr).startBootMsg := by
  rw [exec_boot_fill hq]
  exact fillStep_last (place := .bootFill) hc

/-- The last character of PANIC_MSG, and the turn to the Print phase. -/
theorem exec_boot_msg_last {b : Byte} (hc : c < cells s.params) (last : s.params.panicMsg.length ≤ i + 1)
    (hq : s.seq = .bootMsg (.char c i b)) :
    exec .boot s = .next (s.afterMemWrite (s.params.vgaBase + 2 * c) b).startBootPrint := by
  rw [exec_boot_msg hq]
  exact printAtStep_char_rom_end (place := .bootMsg) hc last

/-- The last PRINT_ATTR of BOOT_MSG: the row advance, and the turn to SendBody. -/
theorem bootPrintTurn_last {col row : Nat} (hcol : col < s.params.cols) (hrow : row < s.params.rows)
    (last : s.params.bootMsg.length ≤ i + 1) :
    printTurn (.rom s.params.bootMsg) bootPrintLand (.attr i col row) s =
      .next (((s.afterMemWrite (s.params.vgaBase + 2 * (row * s.params.cols + col) + 1) s.params.printAttr).setCursor 0
        (((advance s.params col row).2 + 1) % s.params.rows)).setSeq
          (.bootSend (sendHead s.params.bootMsg.length 0))) :=
  (printStep_attr_rom_end (place := .bootPrint) hcol hrow last).trans (congrArg _ (bootPrintLand_ended _))

/-- Settles O41, access by access, each with what follows it. -/
theorem bootPanicsThenPrints : Obligations.BootPanicsThenPrints := by
  intro s c i col row b p k0 colNext rowNext
  refine ⟨fun hc hq => ?fillChar, fun hc hq => ?fillAttr, fun m rest hc hq hcol hrow msg char => ?fillLast,
    fun hc hi char hq => ?msgChar, fun b' rest hc hi hq msg char => ?msgLast, fun hc hi hq empty hrow => ?emptyPrint,
    fun hq hcol hrow => ?printChar, fun hq hcol hrow hi char => ?printAttr, fun hq hcol hrow hi => ?printLast⟩
  case fillChar =>
    rw [exec_boot_fill hq]
    exact fillStep_char (place := .bootFill) hc
  case fillAttr =>
    rw [exec_boot_fill hq]
    exact fillStep_attr (place := .bootFill) hc
  case fillLast =>
    have first : p.panicMsg.getD 0 0x00#8 = m := by rw [msg, List.getD_cons_zero]
    rw [exec_boot_fill_last hc hq, startBootMsg_char (s := s.afterMemWrite _ _) hcol hrow (first ▸ char), ← first]
    rfl
  case msgChar =>
    rw [exec_boot_msg hq]
    exact printAtStep_char_rom (place := .bootMsg) hc char
  case msgLast =>
    have first : p.bootMsg.getD 0 0x00#8 = b' := by rw [msg, List.getD_cons_zero]
    rw [exec_boot_msg_last hc (Nat.le_of_eq hi.symm) hq,
      startBootPrint_char (s := s.afterMemWrite _ _) (first ▸ char), ← first]
    rfl
  case emptyPrint =>
    rw [exec_boot_msg_last hc (Nat.le_of_eq hi.symm) hq, startBootPrint_empty (s := s.afterMemWrite _ _) empty hrow]
    rfl
  case printChar =>
    rw [exec_boot_print hq]
    exact printStep_char (place := .bootPrint) _ hcol hrow
  case printAttr =>
    have moved := printStep_attr_rom (place := .bootPrint)
      (follow := fun _ t => bootSendLand (sendLoop t.params.bootMsg.length 0 t)) hcol hrow char
    rw [advance_eq hcol hrow] at moved
    exact (exec_boot_print hq).trans moved
  case printLast =>
    have ended := (exec_boot_print hq).trans (bootPrintTurn_last hcol hrow (Nat.le_of_eq hi.symm))
    rwa [advance_eq hcol hrow, sendHead_lt (hi ▸ Nat.succ_pos i)] at ended

/-! ### SendBody -/

/-- A poll of SendBody, whichever way it goes on. -/
theorem exec_boot_poll {p p' : SendPt} (hq : s.seq = .bootSend p) (poll : p.IsPoll)
    (next : sendAfter (bootText s) s.params.bootMsg.length p (s.portAnswer .lineStatus) (s.afterPortRead .lineStatus) =
      (s.afterPortRead .lineStatus, .goto p')) :
    exec .boot s = .next ((s.afterPortRead .lineStatus).setSeq (.bootSend p')) := by
  rw [exec_boot_send hq, runAccess_portRead (sendAccess_poll poll _ s), next]
  rfl

theorem exec_boot_poll_wait {p : SendPt} (hq : s.seq = .bootSend p) (poll : p.IsPoll)
    (wait : threSet s.params (s.portAnswer .lineStatus) = false) :
    exec .boot s = .next ((s.afterPortRead .lineStatus).setSeq (.bootSend p)) :=
  exec_boot_poll hq poll (sendAfter_wait (s := s.afterPortRead .lineStatus) poll wait _ _)

/-- Past the poll of its byte SendBody has the byte from Rom. -/
theorem exec_boot_poll_ready (hq : s.seq = .bootSend (.poll i))
    (ready : threSet s.params (s.portAnswer .lineStatus) = true) : exec .boot s =
      .next ((s.afterPortRead .lineStatus).setSeq (.bootSend (.write i (s.params.bootMsg.getD i 0x00#8)))) :=
  exec_boot_poll hq (.byte i) (sendAfter_poll_ready (s := s.afterPortRead .lineStatus) ready)

theorem exec_boot_pollCr_ready (hq : s.seq = .bootSend .pollCr)
    (ready : threSet s.params (s.portAnswer .lineStatus) = true) :
    exec .boot s = .next ((s.afterPortRead .lineStatus).setSeq (.bootSend .writeCr)) :=
  exec_boot_poll hq .cr (sendAfter_pollCr_ready (s := s.afterPortRead .lineStatus) ready)

theorem exec_boot_pollLf_ready (hq : s.seq = .bootSend .pollLf)
    (ready : threSet s.params (s.portAnswer .lineStatus) = true) :
    exec .boot s = .next ((s.afterPortRead .lineStatus).setSeq (.bootSend .writeLf)) :=
  exec_boot_poll hq .lf (sendAfter_pollLf_ready (s := s.afterPortRead .lineStatus) ready)

theorem exec_boot_write {b : Byte} (hq : s.seq = .bootSend (.write i b)) : exec .boot s =
    .next ((s.afterPortWrite .data b).setSeq (.bootSend (sendHead s.params.bootMsg.length (i + 1)))) := by
  rw [exec_boot_send hq, runAccess_portWrite rfl, sendAfter, sendLoop_eq]
  rfl

theorem exec_boot_writeCr (hq : s.seq = .bootSend .writeCr) : exec .boot s =
    .next ((s.afterPortWrite .data s.params.carriageReturn).setSeq (.bootSend .pollLf)) := by
  rw [exec_boot_send hq, runAccess_portWrite rfl]
  rfl

theorem exec_boot_writeLf (hq : s.seq = .bootSend .writeLf) :
    exec .boot s = .next (s.afterPortWrite .data s.params.lineFeed).finishDone := by
  rw [exec_boot_send hq, runAccess_portWrite rfl]
  rfl

/-- Settles O42, access by access; each poll waits or goes on. -/
theorem bootSendsThenIsDone : Obligations.BootSendsThenIsDone := by
  intro s i v
  refine ⟨fun hq => ?poll, fun b => exec_boot_write, fun hq => ?pollCr, exec_boot_writeCr, fun hq => ?pollLf,
    exec_boot_writeLf⟩
  case poll =>
    split
    case isTrue wait => exact exec_boot_poll_wait hq (.byte i) (threSet_false wait)
    case isFalse ready => exact exec_boot_poll_ready hq (threSet_true ready)
  case pollCr =>
    split
    case isTrue wait => exact exec_boot_poll_wait hq .cr (threSet_false wait)
    case isFalse ready => exact exec_boot_pollCr_ready hq (threSet_true ready)
  case pollLf =>
    split
    case isTrue wait => exact exec_boot_poll_wait hq .lf (threSet_false wait)
    case isFalse ready => exact exec_boot_pollLf_ready hq (threSet_true ready)

end Sys2Proof.Machine
end

section
/-! What BOOT leaves alone, that it raises no fault, and that only reset leaves DONE and FAULT (42_boot R170, R171,
R174; 60_exceptions R183). -/

namespace Sys2Proof.Machine

variable {s t : State}

/-! ### DONE and FAULT -/

theorem step_done (host : s.host = []) (done : s.state = .done) : step s = .fault .doneRunEnded := by
  simp [step, systemStep, host, engineStep, done]

theorem step_faulted (host : s.host = []) (fault : s.state = .fault) : step s = .fault .faultRunEnded := by
  simp [step, systemStep, host, engineStep, fault]

/-- In DONE and FAULT the host has no move that writes CMD (70_reset R225). -/
theorem hostWriteCmd_stopped (stopped : s.state = .done ∨ s.state = .fault) (w : Word) :
    hostWriteCmd s w = .fault .hostWriteWhenStopped := by
  rcases stopped with h | h <;> simp [hostWriteCmd, h]

/-- Settles O7: by the kinds of step there are, a step outside BUSY and IDLE is a host's, and only reset is one that
writes STATE. -/
theorem onlyResetLeavesDoneAndFault : Obligations.OnlyResetLeavesDoneAndFault := by
  intro s stopped
  refine ⟨step_done, step_faulted, fun w rest host => ?write, fun t run => ?next⟩
  case write =>
    exact (step_write_offset (off := 0x00) host rfl).trans (hostWriteCmd_stopped (s := s.setHost rest) stopped w)
  case next =>
    have notBusy : s.state ≠ .busy := by rcases stopped with h | h <;> simp [h]
    have notIdle : s.state ≠ .idle := by rcases stopped with h | h <;> simp [h]
    cases stepping_of_step run with
    | command moves i busy word run => exact absurd busy notBusy
    | illegal moves why busy word => exact absurd busy notBusy
    | start moves w idle => exact absurd idle notIdle
    | reset moves asserted => exact .inr ⟨moves, asserted, rfl⟩
    | _ => exact .inl ⟨rfl, rfl, rfl, rfl⟩

/-! ### The frame of a step -/

/-- Outside the Print phase too a step of BOOT writes CURSOR at most, as PRINT does (10_state R25). -/
theorem PrintPhaseWrites.cursor_only (h : PrintPhaseWrites s t) : Writes .print s t := by
  rcases h with same | ⟨_, moved⟩
  · exact ⟨s.cursorX, s.cursorY, same⟩
  · exact moved

/-- But at the two ends of its InitBody a step of BOOT writes of INIT_OK, TXRDY and CURSOR what PRINT does. -/
theorem boot_writes_cursor_only (run : exec .boot s = .next t) (rbr : s.seq ≠ .bootInit .rbr)
    (mcrFinal : s.seq ≠ .bootInit .mcrFinal) : Writes .print s t := by
  cases boot_next run with
  | clear p hq run =>
    refine writes_runAccess (fun v u _ => ?_) run
    exact ⟨u.cursorX, u.cursorY, sameRegs_land (fillAfter_state p v u) fun _ => .setSeq u _⟩
  | init p hq run =>
    refine writes_runAccess (fun v u _ => ?_) run
    rcases bootInitLand_after p v u with ⟨q, e⟩ | ⟨rfl, _⟩ | ⟨rfl, _⟩
    · rw [e]
      exact ⟨u.cursorX, u.cursorY, .setSeq u _⟩
    · exact absurd hq rbr
    · exact absurd hq mcrFinal
  | fill p hq run =>
    exact writes_runAccess (fun v u _ => (printPhaseWrites_bootFillLand (fillAfter_state p v u)).cursor_only) run
  | msg p hq run =>
    exact writes_runAccess (fun v u _ => (printPhaseWrites_bootMsgLand (printAtAfter_state _ p v u)).cursor_only) run
  | print p hq run =>
    exact writes_runAccess (fun v u _ => (computed_printAfter _ p v u).sameRegs (sameRegs_bootPrintLand rfl)) run
  | send p hq run =>
    refine writes_runAccess (fun v u _ => ?_) run
    exact ⟨u.cursorX, u.cursorY, sameRegs_bootSendLand (sendAfter_state _ _ p v u)⟩

/-- Outside InitBody and SendBody BOOT makes no port access (42_boot R170). -/
theorem boot_onMemory (init : ∀ p, s.seq ≠ .bootInit p) (send : ∀ p, s.seq ≠ .bootSend p) :
    ∀ a ∈ nextAccess .boot s, a.onMemory := by
  change ∀ a ∈ bootNext s, a.onMemory
  unfold bootNext
  split
  case h_1 => exact fillAccess_onMemory _ _ _ s
  case h_2 => exact fillAccess_onMemory _ _ _ s
  case h_3 p hq => exact absurd hq (init p)
  case h_4 => exact fillAccess_onMemory _ _ _ s
  case h_5 => exact printAtAccess_onMemory _ _ s
  case h_6 => exact printAccess_onMemory _ _ s
  case h_7 p hq => exact absurd hq (send p)
  case h_8 => rintro a ⟨⟩

/-- Settles O46: the flags by what BOOT writes, the UART by the accesses being memory's outside InitBody and
SendBody. -/
theorem bootFrame : Obligations.BootFrame := by
  intro s t run
  have stepped := exec_next run
  have same := stepped.sameCommand
  refine ⟨same.params, same.cmd, same.ptr, same.len, (exec_writes run).txrdy (by simp), same.resets, same.host,
    same.seen, fun rbr mcrFinal => ?initOk, fun noFault => ?faultRegs, fun init send => ?uart⟩
  case initOk => exact (boot_writes_cursor_only run rbr mcrFinal).initOk (by simp) (by simp)
  case faultRegs =>
    rcases stepped.faultRegs with ⟨_, kept⟩ | ⟨fault, _⟩
    · exact kept
    · exact absurd fault noFault
  case uart =>
    obtain ⟨uart, _⟩ := stepped.onMemory (boot_onMemory init send)
    exact uart

/-! ### No fault (42_boot R174) -/

/-- The command goes on, or is BOOT and ends: no fault is raised. -/
def NoFault (s t : State) : Prop := (t.state = s.state ∨ t.state = .done) ∧ t.faultCode = s.faultCode

theorem noFault_setSeq (s : State) (q : Seq) : NoFault s (s.setSeq q) := ⟨.inl rfl, rfl⟩

/-- An access writes neither STATE nor FAULT_CODE. -/
theorem NoFault.of_perform {u : State} {a : Access} {v : Byte} (hp : s.perform a = .got v u) (h : NoFault u t) :
    NoFault s t := by
  rw [perform_got hp] at h
  exact h

/-- There is an access, and it is performed. -/
def Makes (s : State) (x : Option Access) : Prop := ∃ a v u, x = some a ∧ s.perform a = .got v u

theorem makes_memWrite {x : Option Access} {a : Nat} {b : Byte} (hx : x = some (.memWrite a b))
    (inside : inFb s.params a = true) : Makes s x :=
  ⟨_, _, _, hx, perform_memWrite_of_inFb inside⟩

theorem makes_portRead (s : State) (r : UartReg) : Makes s (some (.portRead r)) := ⟨_, _, _, rfl, rfl⟩

theorem makes_portWrite (s : State) (r : UartReg) (v : Byte) : Makes s (some (.portWrite r v)) := ⟨_, _, _, rfl, rfl⟩

theorem makes_fillAccess {ch attr : Byte} {p : FillPt} (hp : p.onScreen s.params) :
    Makes s (fillAccess ch attr p s) := by
  obtain ⟨a, v, hx⟩ := fillAccess_memWrite ch attr p s
  exact makes_memWrite hx (fillAccess_inFb hp hx)

theorem makes_initAccess (s : State) (p : InitPt) : Makes s (initAccess p s) := by
  cases p with
  | rbr => exact makes_portRead s _
  | _ => exact makes_portWrite s _ _

theorem makes_printAtAccess {src : TextSrc} {p : PrintAtPt} (layout : layoutFits s.params)
    (hp : p.inPanicMsg s.params) : Makes s (printAtAccess src p s) := by
  cases p with
  | read c i => exact hp.elim
  | char c i b =>
    have onScreen := PrintAtPt.onScreen_of_inPanicMsg layout hp
    exact makes_memWrite rfl (printAtAccess_inFb (src := src) onScreen rfl)

theorem makes_printAccess {src : TextSrc} {p : PrintPt} (hp : p.onScreen s.params) (noRead : p.noRead) :
    Makes s (printAccess src p s) := by
  cases p with
  | read i col row => exact noRead.elim
  | char i col row b => exact makes_memWrite rfl (printAccess_inFb (src := src) hp rfl)
  | attr i col row => exact makes_memWrite rfl (printAccess_inFb (src := src) hp rfl)

theorem makes_sendAccess {src : TextSrc} {p : SendPt} (noRead : p.noRead) : Makes s (sendAccess src p s) := by
  cases p with
  | read i => exact noRead.elim
  | poll i => exact makes_portRead s _
  | pollCr => exact makes_portRead s _
  | pollLf => exact makes_portRead s _
  | _ => exact makes_portWrite s _ _

/-- A step of a body whose access is performed raises no fault where its landing raises none. -/
theorem noFault_runAccess {P R : Type} {access : P → State → Option Access}
    {after : P → Byte → State → State × Flow P R} {landing : State × Flow P R → State} {p : P}
    (makes : Makes s (access p s)) (hl : ∀ v u, u.params = s.params → NoFault u (landing (after p v u))) :
    ∃ t, runAccess access after landing p s = .next t ∧ NoFault s t := by
  obtain ⟨x, v, u, hx, hp⟩ := makes
  exact ⟨landing (after p v u), by simp only [runAccess, hx, hp], (hl v u (by rw [perform_got hp])).of_perform hp⟩

theorem noFault_startBootPrint (s : State) : NoFault s s.startBootPrint := by
  obtain ⟨x, y, q, e⟩ := bootPrintLand_rom s
  rw [State.startBootPrint, e]
  exact ⟨.inl rfl, rfl⟩

theorem noFault_bootMsgLand {r : State × Flow PrintAtPt Unit}
    (hr : (∃ q, r = (s, .goto q) ∧ q.inPanicMsg s.params) ∨ r = (s, .ended ())) : NoFault s (bootMsgLand r) := by
  rcases hr with ⟨q, rfl, _⟩ | rfl
  · exact noFault_setSeq s _
  · exact noFault_startBootPrint s

/-- PANIC_MSG ends on the screen, so its start raises no fault. -/
theorem noFault_startBootMsg (layout : layoutFits s.params) : NoFault s s.startBootMsg := by
  have ⟨_, _, hcol, hrow, _⟩ := layout
  rw [State.startBootMsg, printAtStart_ok hcol hrow]
  exact noFault_bootMsgLand (printAtByte_panicMsg layout (Nat.zero_le _))

/-- FillBody goes on, or what follows it does. -/
theorem noFault_fill {place : FillPt → Seq} {follow : Unit → State → State} (hf : NoFault s (follow () s)) (p : FillPt)
    (v : Byte) : NoFault s (land place follow (fillAfter p v s)) := by
  rcases fillAfter_cases p v s with ⟨q, e, _⟩ | e <;> rw [e]
  · exact noFault_setSeq s _
  · exact hf

theorem noFault_bootPrintLand {str : List Byte} {r : State × Flow PrintPt Unit} (hr : PrintGoes (.rom str) s r) :
    NoFault s (bootPrintLand r) := by
  cases hr with
  | goto q _ _ => exact noFault_setSeq s _
  | ended y _ =>
    rw [bootPrintLand_ended]
    exact ⟨.inl rfl, rfl⟩
  | raised c inMem => obtain ⟨a, ha⟩ := inMem; cases ha

/-- SendBody of a Rom text raises no fault (20_memory R64). -/
theorem sendAfter_rom_not_raised (str : List Byte) (n : Nat) (p : SendPt) (v : Byte) (c : FaultCode) :
    (sendAfter (.rom str) n p v s).2 ≠ .raised c := by
  cases p with
  | read i => nofun
  | write i b => rw [sendAfter, sendLoop_eq]; nofun
  | writeCr => nofun
  | writeLf => nofun
  | _ => rw [sendAfter]; split <;> nofun

theorem noFault_bootSendLand (str : List Byte) (n : Nat) (p : SendPt) (v : Byte) (s : State) :
    NoFault s (bootSendLand (sendAfter (.rom str) n p v s)) := by
  rcases sendAfter_cases (.rom str) n p v s with ⟨q, e, _⟩ | e | ⟨c, e⟩
  · rw [e]; exact noFault_setSeq s _
  · rw [e]; exact ⟨.inr rfl, rfl⟩
  · exact absurd (congrArg Prod.snd e) (sendAfter_rom_not_raised str n p v c)

/-- Under the invariant BOOT has a next step wherever its SEQ stands, and the step raises no fault. -/
theorem Inv.boot_noFault (h : Inv s) (word : decode s.cmd = .command .boot) :
    ∃ t, exec .boot s = .next t ∧ NoFault s t := by
  cases hq : s.seq with
  | empty =>
    rw [exec_boot_clear (.inr ⟨hq, rfl⟩)]
    exact noFault_runAccess (makes_fillAccess h.cells_pos) fun v u _ => noFault_fill (noFault_setSeq u _) _ v
  | bootClear p =>
    rw [exec_boot_clear (.inl hq)]
    exact noFault_runAccess (makes_fillAccess (h.fits hq).2) fun v u _ => noFault_fill (noFault_setSeq u _) p v
  | bootInit p =>
    rw [exec_boot_init hq]
    refine noFault_runAccess (makes_initAccess s p) fun v u _ => ?_
    rcases bootInitLand_after p v u with ⟨q, e⟩ | ⟨_, e⟩ | ⟨_, e⟩ <;> rw [e]
    · exact noFault_setSeq u _
    · exact noFault_setSeq (u.setInitOk false) _
    · exact noFault_startBootPrint (u.setInitOk true)
  | bootFill p =>
    rw [exec_boot_fill hq]
    refine noFault_runAccess (makes_fillAccess (h.fits hq).2) fun v u hpar => noFault_fill ?_ p v
    exact noFault_startBootMsg (hpar ▸ h.params.2)
  | bootMsg p =>
    have hp := (h.fits hq).2
    rw [exec_boot_msg hq]
    refine noFault_runAccess (makes_printAtAccess h.params.2 hp) fun v u hpar => noFault_bootMsgLand ?_
    rw [State.setSeq_params, ← hpar] at hp
    rw [← hpar]
    cases p with
    | read c i => exact hp.elim
    | char c i b =>
      obtain ⟨rfl, hi⟩ := hp
      exact printAtByte_panicMsg (hpar ▸ h.params.2) hi
  | bootPrint p =>
    obtain ⟨_, hp, noRead⟩ := h.fits hq
    rw [exec_boot_print hq]
    refine noFault_runAccess (makes_printAccess hp noRead) fun v u hpar => ?_
    rcases printGoes_after (.rom s.params.bootMsg) v (hpar ▸ hp) with hr | ⟨x, y, _, _, _, hr⟩
    · exact noFault_bootPrintLand hr
    · exact noFault_bootPrintLand (s := u.setCursor x y) hr
  | bootSend p =>
    rw [exec_boot_send hq]
    exact noFault_runAccess (makes_sendAccess (h.fits hq).2) fun v u _ => noFault_bootSendLand _ _ p v u
  | _ =>
    have other := h.fits hq
    simp [Machine.seqFits, word] at other

/-- Settles O43, from the phase SEQ stands in. -/
theorem bootRaisesNoFault : Obligations.BootRaisesNoFault := by
  intro s inv busy host word
  obtain ⟨t, run, kept, code⟩ := inv.boot_noFault word
  exact ⟨t, (step_busy busy host word).trans run, kept.imp_left fun same => same.trans busy, code⟩

end Sys2Proof.Machine
end

section
/-! A whole BOOT, phase by phase, and the screen it leaves (42_boot R170, R173, R175). A phase that draws is a `BodyRun`
of its own; a phase on the port bus is a `PortRun`. -/

namespace Sys2Proof.Machine

variable {s : State} {k : Nat} {q : Seq} {v : Byte} {vs : List Byte} {a : Nat}

/-! ### FillBody, in whatever command fills -/

/-- A whole fill, to what follows it. -/
theorem stepN_fill {i : Instr} {place : FillPt → Seq} {follow : Unit → State → State} {ch attr : Byte} {u : State}
    (start : BodyRun i (fillTurn ch attr (land place follow)) place s 0 s [] (.char 0)) (hcells : 0 < cells s.params)
    (after : ∀ q, follow () (s.drawn q (fillEvents s.params ch attr).reverse) = u) :
    stepN (fbBytes s.params) s = .next u := by
  obtain ⟨c, hc⟩ : ∃ c, c + 1 = cells s.params := ⟨cells s.params - 1, Nat.sub_add_cancel hcells⟩
  have filled := bodyRun_fill_last start hc
  rw [fillEvents_reverse hc] at after
  rw [fbBytes, ← hc, Nat.mul_add_one]
  exact filled.next fun q => (fillStep_last (s := s.drawn q _) hc).trans (congrArg _ (after q))

/-- ClearBody. -/
theorem stepN_bootClear (h : Underway .boot s) (hq : s.seq = .empty) (hcells : 0 < cells s.params) :
    stepN (fbBytes s.params) s = .next (s.drawn (.bootInit .ier) (fillEvents s.params 0x00#8 0x00#8).reverse) := by
  have start : BodyRun .boot (fillTurn 0x00#8 0x00#8 bootClearLand) .bootClear s 0 s [] (.char 0) :=
    .start h (fun u p _ _ here => exec_boot_clear (.inl here)) (exec_boot_clear (.inr ⟨hq, rfl⟩))
  exact stepN_fill (place := .bootClear) start hcells fun _ => rfl

/-! ### The phases on the port bus -/

/-- From `s`, whose UART is the oracle, BOOT came in `k` steps to SEQ's place `q`, with the answers `vs` still to come:
of `s` it changed the history besides. -/
structure PortRun (s : State) (k : Nat) (q : Seq) (vs : List Byte) : Prop where
  underway : Underway .boot s
  oracle : s.uart.mode = .oracle
  run : ∃ es, stepN k s = .next (s.sentOn q vs es)

theorem PortRun.start (underway : Underway .boot s) (oracle : s.uart.mode = .oracle) (hq : s.seq = q)
    (answers : s.uart.answers = vs) : PortRun s 0 q vs := by
  subst hq answers
  exact ⟨underway, oracle, [], rfl⟩

namespace PortRun

/-- One more step. -/
theorem next (h : PortRun s k q vs) {u : List Event → State}
    (once : ∀ es, exec .boot (s.sentOn q vs es) = .next (u es)) : ∃ es, stepN (k + 1) s = .next (u es) := by
  obtain ⟨underway, -, es, run⟩ := h
  have here : Underway .boot (s.sentOn q vs es) := ⟨underway.busy, underway.host, underway.word⟩
  exact ⟨es, (stepN_add run 1).trans (stepN_succ (here.step.trans (once es)) 0)⟩

/-- A port write of the oracle's device, as the end of a phase sees it. -/
theorem afterPortWrite (h : PortRun s k q vs) (r : UartReg) (b : Byte) (es : List Event) :
    (s.sentOn q vs es).afterPortWrite r b = s.sentOn q vs (.pw (uartPort s.params r) b :: es) :=
  afterPortWrite_oracle (s := s.sentOn q vs es) h.oracle r b

/-- A port read that the next listed answer serves. -/
theorem afterPortRead (h : PortRun s k q (v :: vs)) (r : UartReg) (es : List Event) :
    (s.sentOn q (v :: vs) es).afterPortRead r = s.sentOn q vs (.pr (uartPort s.params r) v :: es) :=
  afterPortRead_oracle (s := s.sentOn q (v :: vs) es) h.oracle rfl r

theorem portAnswer (h : PortRun s k q (v :: vs)) (r : UartReg) (es : List Event) :
    (s.sentOn q (v :: vs) es).portAnswer r = v :=
  portAnswer_oracle_cons (s := s.sentOn q (v :: vs) es) h.oracle rfl r

/-- One more port write. -/
theorem write (h : PortRun s k q vs) {r : UartReg} {b : Byte} {q' : Seq}
    (once : ∀ es, exec .boot (s.sentOn q vs es) = .next (((s.sentOn q vs es).afterPortWrite r b).setSeq q')) :
    PortRun s (k + 1) q' vs := by
  obtain ⟨es, run⟩ := h.next once
  rw [h.afterPortWrite] at run
  exact ⟨h.underway, h.oracle, _, run⟩

/-- One more port read. -/
theorem read (h : PortRun s k q (v :: vs)) {r : UartReg} {q' : Seq}
    (once : ∀ es, exec .boot (s.sentOn q (v :: vs) es) =
      .next (((s.sentOn q (v :: vs) es).afterPortRead r).setSeq q')) : PortRun s (k + 1) q' vs := by
  obtain ⟨es, run⟩ := h.next once
  rw [h.afterPortRead] at run
  exact ⟨h.underway, h.oracle, _, run⟩

/-- One more write of InitBody. -/
theorem initWrite {p p' : InitPt} {r : UartReg} {b : Byte} (h : PortRun s k (.bootInit p) vs)
    (access : initAccess p s = some (.portWrite r b)) (next : ∀ w, initAfter p 0x00#8 w = (w, .goto p')) :
    PortRun s (k + 1) (.bootInit p') vs :=
  h.write fun _ => exec_boot_init_write rfl ((initAccess_congr p rfl).trans access) next

/-- One byte of BOOT_MSG sent: its poll, which sees THRE, and its THR write (40_uart R105). -/
theorem sendByte {i : Nat} (h : PortRun s k (.bootSend (.poll i)) (v :: vs)) (ready : threSet s.params v = true) :
    PortRun s (k + 2) (.bootSend (sendHead s.params.bootMsg.length (i + 1))) vs :=
  have polled : PortRun s (k + 1) (.bootSend (.write i (s.params.bootMsg.getD i 0x00#8))) vs :=
    h.read fun es => exec_boot_poll_ready rfl ((h.portAnswer .lineStatus es).symm ▸ ready)
  polled.write fun _ => exec_boot_write rfl

/-- CR LF, each past a poll that sees THRE, and BOOT is DONE (40_uart R105, 42_boot R170). -/
theorem crLf {w : Byte} (h : PortRun s k (.bootSend .pollCr) (v :: w :: vs)) (readyCr : threSet s.params v = true)
    (readyLf : threSet s.params w = true) : ∃ es, stepN (k + 4) s = .next (s.sentOn .empty vs es).finishDone := by
  have polledCr := h.read fun es => exec_boot_pollCr_ready rfl ((h.portAnswer .lineStatus es).symm ▸ readyCr)
  have cr := polledCr.write (b := s.params.carriageReturn) fun _ => exec_boot_writeCr rfl
  have polledLf := cr.read fun es => exec_boot_pollLf_ready rfl ((cr.portAnswer .lineStatus es).symm ▸ readyLf)
  obtain ⟨es, run⟩ := polledLf.next fun _ => exec_boot_writeLf rfl
  rw [polledLf.afterPortWrite] at run
  exact ⟨_, run⟩

end PortRun

/-- InitBody comes to its readback by nine writes (40_uart R107). -/
theorem portRun_rbr (h : Underway .boot s) (oracle : s.uart.mode = .oracle) (hq : s.seq = .bootInit .ier)
    (answers : s.uart.answers = vs) : PortRun s 9 (.bootInit .rbr) vs := by
  have ier := (PortRun.start h oracle hq answers).initWrite rfl fun _ => rfl
  have dlab := ier.initWrite rfl fun _ => rfl
  have dll := dlab.initWrite rfl fun _ => rfl
  have dlm := dll.initWrite rfl fun _ => rfl
  have lcr := dlm.initWrite rfl fun _ => rfl
  have fcr := lcr.initWrite rfl fun _ => rfl
  have mcrNormal := fcr.initWrite rfl fun _ => rfl
  have mcrLoop := mcrNormal.initWrite rfl fun _ => rfl
  exact mcrLoop.initWrite rfl fun _ => rfl

/-- InitBody where the readback is TEST_BYTE: the Print phase comes next. -/
theorem stepN_bootInit_match (h : Underway .boot s) (oracle : s.uart.mode = .oracle) (hq : s.seq = .bootInit .ier)
    (answers : s.uart.answers = s.params.testByte :: vs) :
    ∃ es, stepN 11 s = .next ((s.sentOn (.bootInit .mcrFinal) vs es).setInitOk true).startBootPrint := by
  have nine := portRun_rbr h oracle hq answers
  have read := nine.read fun es => exec_boot_rbr_match rfl (nine.portAnswer .data es)
  obtain ⟨es, run⟩ := read.next fun _ => exec_boot_mcrFinal rfl
  rw [read.afterPortWrite] at run
  exact ⟨_, run⟩

/-- InitBody where the readback is another byte: PanicBody comes next. -/
theorem stepN_bootInit_mismatch (h : Underway .boot s) (oracle : s.uart.mode = .oracle) (hq : s.seq = .bootInit .ier)
    (answers : s.uart.answers = v :: vs) (noEcho : v ≠ s.params.testByte) :
    ∃ es, stepN 10 s = .next ((s.sentOn (.bootFill (.char 0)) vs es).setInitOk false) := by
  have nine := portRun_rbr h oracle hq answers
  obtain ⟨es, run⟩ := nine.next fun es => exec_boot_rbr_mismatch rfl ((nine.portAnswer .data es).symm ▸ noEcho)
  rw [nine.afterPortRead] at run
  exact ⟨_, run⟩

/-- The first `k` bytes of BOOT_MSG, by induction on `k`. -/
theorem portRun_bytes {ready : Nat → Byte} {rest : List Byte} (h : Underway .boot s) (oracle : s.uart.mode = .oracle)
    (hq : s.seq = .bootSend (sendHead s.params.bootMsg.length 0))
    (answers : s.uart.answers = answersFrom ready rest s.params.bootMsg.length 0)
    (thre : ∀ j, j < s.params.bootMsg.length + 2 → threSet s.params (ready j) = true)
    (hk : k ≤ s.params.bootMsg.length) :
    PortRun s (2 * k) (.bootSend (sendHead s.params.bootMsg.length k))
      (answersFrom ready rest s.params.bootMsg.length k) := by
  induction k with
  | zero => exact .start h oracle hq answers
  | succ k ih =>
    have before := ih (Nat.le_of_succ_le hk)
    rw [sendHead_lt hk, answersFrom_eq_cons ready rest (by omega)] at before
    exact before.sendByte (thre k (by omega))

/-- A whole SendBody(Rom(BOOT_MSG)), every poll ready at once, to DONE. -/
theorem stepN_bootSend {ready : Nat → Byte} {rest : List Byte} (h : Underway .boot s) (oracle : s.uart.mode = .oracle)
    (hq : s.seq = .bootSend (sendHead s.params.bootMsg.length 0))
    (answers : s.uart.answers = answersFrom ready rest s.params.bootMsg.length 0)
    (thre : ∀ j, j < s.params.bootMsg.length + 2 → threSet s.params (ready j) = true) :
    ∃ es, stepN (2 * s.params.bootMsg.length + 4) s = .next (s.sentOn .empty rest es).finishDone := by
  have bytes := portRun_bytes h oracle hq answers thre (Nat.le_refl _)
  rw [sendHead_ge (Nat.le_refl _), answersFrom_eq_cons ready rest (by omega),
    answersFrom_eq_cons ready rest (by omega)] at bytes
  obtain ⟨es, run⟩ := bytes.crLf (thre _ (by omega)) (thre _ (by omega))
  rw [answersFrom, Nat.sub_self] at run
  exact ⟨es, run⟩

/-! ### The Print phase -/

section Print
variable {txt : List Byte}

/-- The events of the first `k` characters of PrintBody on a Rom text from row `y` on, in order (41_console R132,
20_memory R64). -/
def romPrinted (p : Params) (y : Nat) (txt : List Byte) (k : Nat) : List Event :=
  (List.range k).flatMap fun j =>
    [.mw (p.vgaBase + 2 * printCell p y j) (txt.getD j 0x00#8), .mw (p.vgaBase + 2 * printCell p y j + 1) p.printAttr]

theorem romPrinted_succ (p : Params) (y : Nat) (txt : List Byte) (k : Nat) : romPrinted p y txt (k + 1) =
    romPrinted p y txt k ++ [.mw (p.vgaBase + 2 * printCell p y k) (txt.getD k 0x00#8),
      .mw (p.vgaBase + 2 * printCell p y k + 1) p.printAttr] := by
  simp [romPrinted, List.range_succ]

/-- A byte of a text without the terminator. -/
theorem getD_ne_terminator (h : 0x00#8 ∉ txt) {j : Nat} (hj : j < txt.length) : txt.getD j 0x00#8 ≠ 0x00#8 := by
  rw [List.getD_eq_getElem?_getD, List.getElem?_eq_getElem hj, Option.getD_some]
  exact fun h0 => h (h0 ▸ List.getElem_mem hj)

/-- From `s` BOOT came in `k` steps to the point `p` of its PrintBody, with the events `es` (newest first); `b` is `s`
with CURSOR where it now is. -/
abbrev BootPrintRun (s : State) : Nat → State → List Event → PrintPt → Prop :=
  BodyRun .boot (printTurn (.rom s.params.bootMsg) bootPrintLand) .bootPrint s

theorem runsBody_bootPrint (s : State) :
    RunsBody .boot (printTurn (.rom s.params.bootMsg) bootPrintLand) .bootPrint s := fun u p hpar _ here => by
  rw [exec_boot_print here, hpar]

/-- A character's write of a Rom text. -/
theorem BootPrintRun.char {b : State} {es : List Event} {j col row : Nat} {x : Byte}
    (h : BootPrintRun s k b es (.char j col row x)) (hcol : col < s.params.cols) (hrow : row < s.params.rows) :
    BootPrintRun s (k + 1) b (.mw (s.params.vgaBase + 2 * (row * s.params.cols + col)) x :: es)
      (.attr j col row) := by
  refine h.write (inFb_cellAddr s.params (cellIndex_lt hcol hrow)) h.moved fun q => ?_
  obtain ⟨x, y, rfl⟩ := h.moved
  exact printStep_char (place := .bootPrint) (s := State.drawn { s with cursorX := x, cursorY := y } q es) _ hcol hrow

/-- PRINT_ATTR's write of a Rom text, another character to come: the cursor moves on. -/
theorem BootPrintRun.attr {b : State} {es : List Event} {j col row : Nat}
    (h : BootPrintRun s k b es (.attr j col row)) (hcol : col < s.params.cols) (hrow : row < s.params.rows)
    (char : s.params.bootMsg.getD (j + 1) 0x00#8 ≠ 0x00#8) :
    ∃ b', BootPrintRun s (k + 1) b'
      (.mw (s.params.vgaBase + 2 * (row * s.params.cols + col) + 1) s.params.printAttr :: es)
      (.char (j + 1) (advance s.params col row).1 (advance s.params col row).2
        (s.params.bootMsg.getD (j + 1) 0x00#8)) := by
  have moved := h.moved.trans (.setCursor _ (advance s.params col row).1 (advance s.params col row).2)
  refine ⟨_, h.write (inFb_cellAddr_succ s.params (cellIndex_lt hcol hrow)) moved fun q => ?_⟩
  obtain ⟨x, y, rfl⟩ := h.moved
  exact printStep_attr_rom (place := .bootPrint) (s := State.drawn { s with cursorX := x, cursorY := y } q es) hcol hrow
    char

/-- The last PRINT_ATTR's write: the row advance, and SendBody next. -/
theorem BootPrintRun.last {b : State} {es : List Event} {j col row : Nat}
    (h : BootPrintRun s k b es (.attr j col row)) (hcol : col < s.params.cols) (hrow : row < s.params.rows)
    (last : s.params.bootMsg.length ≤ j + 1) : stepN (k + 1) s =
      .next ((s.drawn (.bootSend (sendHead s.params.bootMsg.length 0))
        (.mw (s.params.vgaBase + 2 * (row * s.params.cols + col) + 1) s.params.printAttr :: es)).setCursor 0
          (((advance s.params col row).2 + 1) % s.params.rows)) := by
  refine h.next fun q => ?_
  obtain ⟨x, y, rfl⟩ := h.moved
  exact bootPrintTurn_last (s := State.drawn { s with cursorX := x, cursorY := y } q es) hcol hrow last

/-- The first `k` characters of BOOT_MSG, by induction on `k`: character `k` comes next, at its cell (41_console
R141). -/
theorem bootPrintRun_chars (start : BootPrintRun s 0 s [] (.char 0 0 s.cursorY.toNat (s.params.bootMsg.getD 0 0x00#8)))
    (noTerminator : 0x00#8 ∉ s.params.bootMsg) (hcols : 0 < s.params.cols) (hy : s.cursorY.toNat < s.params.rows)
    (hk : k < s.params.bootMsg.length) :
    ∃ b, BootPrintRun s (2 * k) b (romPrinted s.params s.cursorY.toNat s.params.bootMsg k).reverse
      (.char k (printCell s.params s.cursorY.toNat k % s.params.cols)
        (printCell s.params s.cursorY.toNat k / s.params.cols) (s.params.bootMsg.getD k 0x00#8)) := by
  induction k with
  | zero =>
    obtain ⟨col, row⟩ := printCell_zero hcols hy
    rw [col, row]
    exact ⟨s, start⟩
  | succ k ih =>
    obtain ⟨b, before⟩ := ih (Nat.lt_of_succ_lt hk)
    obtain ⟨hcol, hrow⟩ := printCell_onScreen hcols (Nat.zero_lt_of_lt hy) s.cursorY.toNat k
    obtain ⟨b', after⟩ := (before.char hcol hrow).attr hcol hrow (getD_ne_terminator noTerminator hk)
    rw [advance_printCell hcols (Nat.zero_lt_of_lt hy), Nat.div_add_mod'] at after
    rw [romPrinted_succ, List.reverse_append]
    exact ⟨b', after⟩

/-- `s` with BOOT_MSG printed from row CURSOR_Y on: its events stored, and the cursor at column 0 of the row after the
last character's (41_console R139). -/
def State.bootPrinted (s : State) : State :=
  (s.drawn .empty (romPrinted s.params s.cursorY.toNat s.params.bootMsg s.params.bootMsg.length).reverse).setCursor 0
    ((s.cursorY.toNat + s.params.bootMsg.length / s.params.cols + 1) % s.params.rows)

/-- A PrintBody(Rom(BOOT_MSG)) from its first character on. -/
theorem stepN_bootPrint_chars
    (start : BootPrintRun s 0 s [] (.char 0 0 s.cursorY.toNat (s.params.bootMsg.getD 0 0x00#8)))
    (noTerminator : 0x00#8 ∉ s.params.bootMsg) (hcols : 0 < s.params.cols) (hy : s.cursorY.toNat < s.params.rows)
    (nonempty : 0 < s.params.bootMsg.length) : stepN (2 * s.params.bootMsg.length) s =
      .next (s.bootPrinted.setSeq (.bootSend (sendHead s.params.bootMsg.length 0))) := by
  have hrows := Nat.zero_lt_of_lt hy
  obtain ⟨m, hm⟩ : ∃ m, m + 1 = s.params.bootMsg.length := ⟨_, Nat.sub_add_cancel nonempty⟩
  obtain ⟨b, before⟩ := bootPrintRun_chars start noTerminator hcols hy (Nat.lt_of_succ_le (Nat.le_of_eq hm))
  obtain ⟨hcol, hrow⟩ := printCell_onScreen hcols hrows s.cursorY.toNat m
  have whole := (before.char hcol hrow).last hcol hrow (Nat.le_of_eq hm.symm)
  rw [advance_printCell hcols hrows, Nat.div_add_mod', hm, printCell_div hcols, Nat.mod_add_mod] at whole
  have events := congrArg List.reverse (romPrinted_succ s.params s.cursorY.toNat s.params.bootMsg m)
  rw [hm, List.reverse_append] at events
  rw [State.bootPrinted, events, show 2 * s.params.bootMsg.length = 2 * m + 1 + 1 by omega]
  exact whole

/-- A whole PrintBody(Rom(BOOT_MSG)), and the turn to SendBody (42_boot R170). -/
theorem stepN_bootPrint (h : Underway .boot s) (noTerminator : 0x00#8 ∉ s.params.bootMsg) (hcols : 0 < s.params.cols)
    (hy : s.cursorY.toNat < s.params.rows) : stepN (2 * s.params.bootMsg.length) s.startBootPrint =
      .next (s.bootPrinted.setSeq (.bootSend (sendHead s.params.bootMsg.length 0))) := by
  rcases Nat.eq_zero_or_pos s.params.bootMsg.length with empty | nonempty
  · rw [startBootPrint_empty (List.eq_nil_of_length_eq_zero empty) hy, empty, State.bootPrinted, empty, Nat.zero_div]
    rfl
  · rw [startBootPrint_char (getD_ne_terminator noTerminator nonempty)]
    exact stepN_bootPrint_chars (s := s.setSeq (.bootPrint (.char 0 0 _ _)))
      (.start ⟨h.busy, h.host, h.word⟩ (runsBody_bootPrint _) (exec_boot_print rfl)) noTerminator hcols hy nonempty

end Print

end Sys2Proof.Machine
end

section
/-! The screen a whole BOOT leaves, self-test passed or failed (42_boot R170, R173, R175). -/

namespace Sys2Proof.Machine

variable {s u : State} {k c : Nat} {v : Byte} {a : Nat} {txt : List Byte}

theorem stepN_trans {m n : Nat} {r : Host.Outcome State Fault Refusal} (first : stepN m s = .next u)
    (later : stepN n u = r) : stepN (m + n) s = r :=
  (stepN_add first n).trans later

/-! ### PanicBody -/

/-- The Print phase starts the same wherever SEQ stood. -/
theorem startBootPrint_setSeq (s : State) (q : Seq) : (s.setSeq q).startBootPrint = s.startBootPrint := by
  by_cases char : s.params.bootMsg.getD 0 0x00#8 = 0x00#8
  · simp only [State.startBootPrint, printStart, bootText, printText_rom, State.setSeq_params, State.setSeq_cursorY,
      char, printByte_terminator, bootPrintLand_ended]
    rfl
  · rw [startBootPrint_char char, startBootPrint_char (s := s.setSeq q) char]
    rfl

/-- A PANIC_MSG that is empty turns to the Print phase at once. -/
theorem startBootMsg_empty (hcol : s.params.panicCol < s.params.cols) (hrow : s.params.panicRow < s.params.rows)
    (empty : s.params.panicMsg = []) : s.startBootMsg = s.startBootPrint := by
  rw [State.startBootMsg, printAtStart_ok hcol hrow, panicText, printAtText_rom, empty, List.getD_nil,
    printAtByte_terminator]
  rfl

theorem panicMsg_char (layout : layoutFits s.params) (hk : k < s.params.panicMsg.length) :
    s.params.panicMsg.getD k 0x00#8 ≠ 0x00#8 := by
  obtain ⟨_, _, _, _, noTerminator, _⟩ := layout
  exact getD_ne_terminator noTerminator hk

/-- The message starts the same wherever SEQ stood. -/
theorem startBootMsg_setSeq (layout : layoutFits s.params) (q : Seq) : (s.setSeq q).startBootMsg = s.startBootMsg := by
  have ⟨_, _, hcol, hrow, _⟩ := layout
  rcases Nat.eq_zero_or_pos s.params.panicMsg.length with empty | nonempty
  · have empty := List.eq_nil_of_length_eq_zero empty
    rw [startBootMsg_empty hcol hrow empty, startBootMsg_empty (s := s.setSeq q) hcol hrow empty,
      startBootPrint_setSeq]
  · have char := panicMsg_char layout nonempty
    rw [startBootMsg_char hcol hrow char, startBootMsg_char (s := s.setSeq q) hcol hrow char]
    rfl

/-- The fill of PanicBody, and the turn to its message (41_console R138). -/
theorem stepN_bootFill (h : Underway .boot s) (hq : s.seq = .bootFill (.char 0)) (layout : layoutFits s.params) :
    stepN (fbBytes s.params) s =
      .next (s.drawn .empty (fillEvents s.params s.params.panicFillChar s.params.panicAttr).reverse).startBootMsg := by
  have ⟨hcols, hrows, _⟩ := layout
  have body : RunsBody .boot (fillTurn s.params.panicFillChar s.params.panicAttr bootFillLand) .bootFill s :=
    fun u p hpar _ here => by rw [exec_boot_fill here, hpar]
  exact stepN_fill (place := .bootFill) (.start h body (exec_boot_fill hq)) (cells_pos hcols hrows) fun q =>
    startBootMsg_setSeq (s := s.drawn .empty _) layout q

/-- The events of the first `k` characters of PrintAtBody on a Rom text from cell `c` on, in order (41_console R137,
20_memory R64). -/
def romPrintedAt (p : Params) (c : Nat) (txt : List Byte) (k : Nat) : List Event :=
  (List.range k).map fun j => .mw (p.vgaBase + 2 * (c + j)) (txt.getD j 0x00#8)

theorem romPrintedAt_succ (p : Params) (c : Nat) (txt : List Byte) (k : Nat) : romPrintedAt p c txt (k + 1) =
    romPrintedAt p c txt k ++ [.mw (p.vgaBase + 2 * (c + k)) (txt.getD k 0x00#8)] := by
  simp [romPrintedAt, List.range_succ]

/-- From `s` BOOT came in `k` steps to the point `p` of its PrintAtBody, with the events `es` (newest first). -/
abbrev BootMsgRun (s : State) (k : Nat) (es : List Event) (p : PrintAtPt) : Prop :=
  BodyRun .boot (printAtTurn (.rom s.params.panicMsg) bootMsgLand) .bootMsg s k s es p

/-- The first `k` characters of PANIC_MSG, by induction on `k`: character `k` comes next, at its cell. -/
theorem bootMsgRun_chars
    (start : BootMsgRun s 0 [] (.char (panicCell s.params) 0 (s.params.panicMsg.getD 0 0x00#8)))
    (layout : layoutFits s.params) (hk : k < s.params.panicMsg.length) :
    BootMsgRun s k (romPrintedAt s.params (panicCell s.params) s.params.panicMsg k).reverse
      (.char (panicCell s.params + k) k (s.params.panicMsg.getD k 0x00#8)) := by
  induction k with
  | zero => exact start
  | succ k ih =>
    have ⟨_, _, _, _, _, fits⟩ := layout
    have next : panicCell s.params + k + 1 < cells s.params := by omega
    have char := panicMsg_char layout hk
    rw [romPrintedAt_succ, List.reverse_append]
    exact (ih (Nat.lt_of_succ_lt hk)).write (inFb_cellAddr s.params (Nat.lt_of_succ_lt next)) (.refl s) fun q =>
      printAtStep_char_rom (place := .bootMsg) (s := s.drawn q _) next char

/-- A PrintAtBody(Rom(PANIC_MSG)) from its first character on. -/
theorem stepN_bootMsg_chars
    (start : BootMsgRun s 0 [] (.char (panicCell s.params) 0 (s.params.panicMsg.getD 0 0x00#8)))
    (layout : layoutFits s.params) (nonempty : 0 < s.params.panicMsg.length) :
    stepN s.params.panicMsg.length s = .next (s.drawn .empty
      (romPrintedAt s.params (panicCell s.params) s.params.panicMsg
        s.params.panicMsg.length).reverse).startBootPrint := by
  have ⟨_, _, _, _, _, fits⟩ := layout
  obtain ⟨m, hm⟩ : ∃ m, m + 1 = s.params.panicMsg.length := ⟨_, Nat.sub_add_cancel nonempty⟩
  have chars := bootMsgRun_chars start layout (Nat.lt_of_succ_le (Nat.le_of_eq hm))
  have inside : panicCell s.params + m < cells s.params := by omega
  rw [← hm, romPrintedAt_succ, List.reverse_append]
  exact chars.next fun q => (printAtStep_char_rom_end (place := .bootMsg) (s := s.drawn q _) inside
    (Nat.le_of_eq hm.symm)).trans (congrArg _ (startBootPrint_setSeq (s.drawn .empty (.mw _ _ :: _)) q))

/-- A whole PrintAtBody(Rom(PANIC_MSG)), and the turn to the Print phase (42_boot R170 a). -/
theorem stepN_bootMsg (h : Underway .boot s) (layout : layoutFits s.params) :
    stepN s.params.panicMsg.length s.startBootMsg = .next (s.drawn .empty
      (romPrintedAt s.params (panicCell s.params) s.params.panicMsg
        s.params.panicMsg.length).reverse).startBootPrint := by
  have ⟨_, _, hcol, hrow, _⟩ := layout
  rcases Nat.eq_zero_or_pos s.params.panicMsg.length with empty | nonempty
  · rw [startBootMsg_empty hcol hrow (List.eq_nil_of_length_eq_zero empty), empty]
    exact congrArg _ (startBootPrint_setSeq s .empty).symm
  · rw [startBootMsg_char hcol hrow (panicMsg_char layout nonempty)]
    exact stepN_bootMsg_chars (s := s.setSeq (.bootMsg (.char _ 0 _)))
      (.start ⟨h.busy, h.host, h.word⟩ (fun u p hpar _ here => by rw [exec_boot_msg here, hpar]) (exec_boot_msg rfl))
      layout nonempty

/-- `s` with PanicBody(Rom(PANIC_MSG)) drawn. -/
def State.panicked (s : State) : State :=
  s.drawn .empty ((romPrintedAt s.params (panicCell s.params) s.params.panicMsg s.params.panicMsg.length).reverse ++
    (fillEvents s.params s.params.panicFillChar s.params.panicAttr).reverse)

/-- A whole PanicBody of BOOT, and the turn to the Print phase. -/
theorem stepN_bootPanic (h : Underway .boot s) (hq : s.seq = .bootFill (.char 0)) (layout : layoutFits s.params) :
    stepN (fbBytes s.params + s.params.panicMsg.length) s = .next s.panicked.startBootPrint := by
  rw [State.panicked, ← drawn_drawn s .empty]
  exact stepN_trans (stepN_bootFill h hq layout) (stepN_bootMsg (s := s.drawn .empty _) ⟨h.busy, h.host, h.word⟩ layout)

/-! ### The screen after PanicBody -/

/-- What memory lists for an address is what it reads as. -/
theorem byteAt_of_memLookup (h : memLookup s.mem a = some v) : s.byteAt a = v := by
  rw [State.byteAt, h, Option.getD_some]

theorem mw_mem_romPrintedAt {p : Params} : .mw a v ∈ romPrintedAt p c txt txt.length ↔
    ∃ j, j < txt.length ∧ p.vgaBase + 2 * (c + j) = a ∧ txt.getD j 0x00#8 = v := by
  simp [romPrintedAt]

/-- Where the message has no character, PanicBody leaves what its fill left. -/
theorem byteAt_panicked_other (other : ∀ j, j < s.params.panicMsg.length →
      s.params.vgaBase + 2 * (panicCell s.params + j) ≠ a) :
    s.panicked.byteAt a =
      (s.drawn .empty (fillEvents s.params s.params.panicFillChar s.params.panicAttr).reverse).byteAt a := by
  rw [State.panicked, ← drawn_drawn s .empty]
  refine byteAt_drawn_other .empty fun _ hw => ?_
  obtain ⟨j, hj, ha, _⟩ := mw_mem_romPrintedAt.1 (List.mem_reverse.1 hw)
  exact other j hj ha

/-- Every cell has PANIC_ATTR at the end of PanicBody (42_boot R175). -/
theorem byteAt_panicked_attr (hc : c < cells s.params) :
    s.panicked.byteAt (s.params.vgaBase + 2 * c + 1) = s.params.panicAttr := by
  rw [byteAt_panicked_other fun j _ => by omega]
  exact byteAt_of_memLookup (memLookup_filled_attr s.mem _ _ hc)

/-- PANIC_MSG stands in its cells. -/
theorem byteAt_panicked_msg (hk : panicCell s.params ≤ c) (hc : c < panicCell s.params + s.params.panicMsg.length) :
    s.panicked.byteAt (s.params.vgaBase + 2 * c) = s.params.panicMsg.getD (c - panicCell s.params) 0x00#8 := by
  rw [State.panicked, ← drawn_drawn s .empty]
  refine byteAt_drawn .empty (List.mem_reverse.2 (mw_mem_romPrintedAt.2 ⟨c - panicCell s.params, by omega, by
    rw [Nat.add_sub_cancel' hk], rfl⟩)) ?_
  intro w hw
  obtain ⟨j, _, ha, rfl⟩ := mw_mem_romPrintedAt.1 (List.mem_reverse.1 hw)
  rw [show j = c - panicCell s.params by omega]

/-- Every other cell has PANIC_FILL_CHAR. -/
theorem byteAt_panicked_fill (hc : c < cells s.params)
    (outside : c < panicCell s.params ∨ panicCell s.params + s.params.panicMsg.length ≤ c) :
    s.panicked.byteAt (s.params.vgaBase + 2 * c) = s.params.panicFillChar := by
  rw [byteAt_panicked_other fun j _ => by omega]
  exact byteAt_of_memLookup (memLookup_filled_char s.mem _ _ hc)

/-! ### The screen after the Print phase -/

/-- From row 0 a text of at most CELLS characters goes to the cells from 0 on (42_boot R175). -/
theorem mw_mem_romPrinted {p : Params} (fits : txt.length ≤ cells p) :
    .mw a v ∈ romPrinted p 0 txt txt.length ↔
      ∃ j, j < txt.length ∧ (a = p.vgaBase + 2 * j ∧ v = txt.getD j 0x00#8 ∨
        a = p.vgaBase + 2 * j + 1 ∧ v = p.printAttr) := by
  have cell : ∀ j, j < txt.length → printCell p 0 j = j := fun j hj => by
    rw [printCell, Nat.zero_mul, Nat.zero_add, Nat.mod_eq_of_lt (Nat.lt_of_lt_of_le hj fits)]
  have mem : .mw a v ∈ romPrinted p 0 txt txt.length ↔ ∃ j, j < txt.length ∧
      (a = p.vgaBase + 2 * printCell p 0 j ∧ v = txt.getD j 0x00#8 ∨
        a = p.vgaBase + 2 * printCell p 0 j + 1 ∧ v = p.printAttr) := by simp [romPrinted]
  rw [mem]
  exact exists_congr fun j => and_congr_right fun hj => by rw [cell j hj]

/-- `t` is what the Print phase and SendBody leave of `s`, the answers `rest` still to come (42_boot R170, R175). -/
structure BootEnded (s : State) (rest : List Byte) (t : State) : Prop where
  done : t.state = .done
  initOk : t.initOk = s.initOk
  faultCode : t.faultCode = s.faultCode
  cursorX : t.cursorX = 0#8
  cursorY : s.cursorY = 0#8 →
    t.cursorY = BitVec.ofNat 8 ((s.params.bootMsg.length / s.params.cols + 1) % s.params.rows)
  answers : t.uart.answers = rest
  byteAt : ∀ a, t.byteAt a = s.bootPrinted.byteAt a

theorem bootEnded (s : State) (rest : List Byte) (es : List Event) :
    BootEnded s rest (s.bootPrinted.sentOn .empty rest es).finishDone where
  done := rfl
  initOk := rfl
  faultCode := rfl
  cursorX := rfl
  cursorY row0 := by
    change BitVec.ofNat 8 ((s.cursorY.toNat + s.params.bootMsg.length / s.params.cols + 1) % s.params.rows) = _
    rw [row0, BitVec.toNat_zero, Nat.zero_add]
  answers := rfl
  byteAt := byteAt_congr rfl rfl rfl

/-- What the Print phase writes of a byte. -/
theorem mw_mem_bootPrinted (row0 : s.cursorY = 0#8) (fits : s.params.bootMsg.length ≤ cells s.params) :
    .mw a v ∈ (romPrinted s.params s.cursorY.toNat s.params.bootMsg s.params.bootMsg.length).reverse ↔
      ∃ j, j < s.params.bootMsg.length ∧
        (a = s.params.vgaBase + 2 * j ∧ v = s.params.bootMsg.getD j 0x00#8 ∨
          a = s.params.vgaBase + 2 * j + 1 ∧ v = s.params.printAttr) := by
  rw [List.mem_reverse, row0]
  exact mw_mem_romPrinted fits

namespace BootEnded
variable {rest : List Byte} {t : State} (h : BootEnded s rest t) (row0 : s.cursorY = 0#8)
  (fits : s.params.bootMsg.length ≤ cells s.params)
include h row0 fits

theorem char (hc : c < s.params.bootMsg.length) :
    t.byteAt (s.params.vgaBase + 2 * c) = s.params.bootMsg.getD c 0x00#8 := by
  rw [h.byteAt]
  refine byteAt_drawn (s := s) .empty ((mw_mem_bootPrinted row0 fits).2 ⟨c, hc, .inl ⟨rfl, rfl⟩⟩) fun w hw => ?_
  obtain ⟨j, _, ⟨ha, rfl⟩ | ⟨ha, _⟩⟩ := (mw_mem_bootPrinted row0 fits).1 hw
  · rw [show j = c by omega]
  · omega

theorem attr (hc : c < s.params.bootMsg.length) :
    t.byteAt (s.params.vgaBase + 2 * c + 1) = s.params.printAttr := by
  rw [h.byteAt]
  refine byteAt_drawn (s := s) .empty ((mw_mem_bootPrinted row0 fits).2 ⟨c, hc, .inr ⟨rfl, rfl⟩⟩) fun w hw => ?_
  obtain ⟨j, _, ⟨ha, _⟩ | ⟨_, rfl⟩⟩ := (mw_mem_bootPrinted row0 fits).1 hw
  · omega
  · rfl

/-- Past BOOT_MSG, and below the screen, every byte is as it was. -/
theorem other (ha : a < s.params.vgaBase ∨ s.params.vgaBase + 2 * s.params.bootMsg.length ≤ a) :
    t.byteAt a = s.byteAt a := by
  rw [h.byteAt]
  refine byteAt_drawn_other (s := s) .empty fun w hw => ?_
  obtain ⟨j, _, ⟨ha, _⟩ | ⟨ha, _⟩⟩ := (mw_mem_bootPrinted row0 fits).1 hw <;> omega

end BootEnded

/-! ### A whole BOOT -/

/-- The Print phase and SendBody, every poll ready at once, to DONE. -/
theorem stepN_bootEnd {ready : Nat → Byte} {rest : List Byte} (h : Underway .boot s) (valid : paramsValid s.params)
    (hy : s.cursorY.toNat < s.params.rows) (oracle : s.uart.mode = .oracle)
    (answers : s.uart.answers = answersFrom ready rest s.params.bootMsg.length 0)
    (thre : ∀ j, j < s.params.bootMsg.length + 2 → threSet s.params (ready j) = true) :
    ∃ t, stepN (2 * s.params.bootMsg.length + (2 * s.params.bootMsg.length + 4)) s.startBootPrint = .next t ∧
      BootEnded s rest t := by
  obtain ⟨⟨_, _, noTerminator⟩, hcols, _⟩ := valid
  obtain ⟨es, sent⟩ := stepN_bootSend (s := s.bootPrinted.setSeq (.bootSend (sendHead s.params.bootMsg.length 0)))
    ⟨h.busy, h.host, h.word⟩ oracle rfl answers thre
  exact ⟨_, stepN_trans (stepN_bootPrint h noTerminator hcols hy) sent, bootEnded s rest es⟩

/-- `s` with ClearBody and InitBody done: a blank screen, INIT_OK as the self-test has it, and the answers `vs` still to
come. -/
def State.selfTested (s : State) (ok : Bool) (vs : List Byte) (es : List Event) : State :=
  { s with
    initOk := ok
    seq := .empty
    mem := stored s.mem (fillEvents s.params 0x00#8 0x00#8).reverse
    uart := { s.uart with answers := vs }
    history := es ++ ((fillEvents s.params 0x00#8 0x00#8).reverse ++ s.history) }

theorem byteAt_selfTested (s : State) (ok : Bool) (vs : List Byte) (es : List Event) (a : Nat) :
    (s.selfTested ok vs es).byteAt a = (s.drawn .empty (fillEvents s.params 0x00#8 0x00#8).reverse).byteAt a :=
  byteAt_congr rfl rfl rfl a

/-- BOOT to the end of an InitBody whose readback is TEST_BYTE. -/
theorem stepN_boot_match (started : Started s .boot) (hcells : 0 < cells s.params) (oracle : s.uart.mode = .oracle)
    (answers : s.uart.answers = s.params.testByte :: vs) :
    ∃ es, stepN (fbBytes s.params + 11) s = .next (s.selfTested true vs es).startBootPrint := by
  have h := started.underway
  obtain ⟨-, hq, -⟩ := started
  obtain ⟨es, tested⟩ := stepN_bootInit_match (s := s.drawn (.bootInit .ier) _) ⟨h.busy, h.host, h.word⟩ oracle rfl
    answers
  refine ⟨es, (stepN_trans (stepN_bootClear h hq hcells) tested).trans (congrArg _ ?_)⟩
  exact startBootPrint_setSeq (s.selfTested true vs es) (.bootInit .mcrFinal)

/-- BOOT to the end of the PanicBody that follows a readback of another byte. -/
theorem stepN_boot_mismatch (started : Started s .boot) (layout : layoutFits s.params) (oracle : s.uart.mode = .oracle)
    (answers : s.uart.answers = v :: vs) (noEcho : v ≠ s.params.testByte) :
    ∃ es, stepN (fbBytes s.params + 10 + (fbBytes s.params + s.params.panicMsg.length)) s =
      .next (s.selfTested false vs es).panicked.startBootPrint := by
  have ⟨hcols, hrows, _⟩ := layout
  have h := started.underway
  obtain ⟨-, hq, -⟩ := started
  obtain ⟨es, tested⟩ := stepN_bootInit_mismatch (s := s.drawn (.bootInit .ier) _) ⟨h.busy, h.host, h.word⟩ oracle rfl
    answers noEcho
  have panicked := stepN_bootPanic (s := (s.selfTested false vs es).setSeq (.bootFill (.char 0)))
    ⟨h.busy, h.host, h.word⟩ rfl layout
  exact ⟨es, stepN_trans (stepN_trans (stepN_bootClear h hq (cells_pos hcols hrows)) tested) panicked⟩

theorem byteAt_startBootPrint (s : State) (a : Nat) : s.startBootPrint.byteAt a = s.byteAt a := by
  obtain ⟨x, y, q, e⟩ := bootPrintLand_rom s
  rw [State.startBootPrint, e]
  exact byteAt_congr rfl rfl rfl a

theorem answersFrom_zero (ready : Nat → Byte) (rest : List Byte) (n : Nat) :
    (List.range (n + 2)).map ready ++ rest = answersFrom ready rest n 0 := by
  rw [List.range_eq_range']
  rfl

/-- Settles O45: the phases in turn, and the bytes that the fill and then the message leave. -/
theorem bootAfterAPassedSelfTest : Obligations.BootAfterAPassedSelfTest := by
  intro s ready rest p msg n started valid row0 fits oracle answers polls
  have ⟨_, hcols, hrows, _⟩ := valid
  have h := started.underway
  have hy : s.cursorY.toNat < p.rows := by rw [row0]; exact hrows
  rw [answersFrom_zero] at answers
  obtain ⟨es, tested⟩ := stepN_boot_match started (cells_pos hcols hrows) oracle answers
  obtain ⟨t, run, ended⟩ := stepN_bootEnd (s := s.selfTested true (answersFrom ready rest n 0) es)
    ⟨h.busy, h.host, h.word⟩ valid hy oracle rfl fun j hj => threSet_true (polls j hj)
  have blank {a : Nat} (ha : a < p.vgaBase ∨ p.vgaBase + 2 * n ≤ a) :
      t.byteAt a = (s.drawn .empty (fillEvents p 0x00#8 0x00#8).reverse).byteAt a :=
    (ended.other row0 fits ha).trans (byteAt_selfTested s true _ es a)
  rw [Nat.add_assoc (fbBytes p + 11)]
  refine ⟨t, stepN_trans tested run, ended.done, ended.initOk, ended.faultCode, ended.cursorX, ended.cursorY row0,
    ended.answers, fun c hc => ⟨ended.char row0 fits hc, ended.attr row0 fits hc⟩,
    fun c hn hc => ⟨?blankChar, ?blankAttr⟩, fun a outside => ?outside⟩
  case blankChar =>
    rw [blank (.inr (by omega))]
    exact byteAt_of_memLookup (memLookup_filled_char s.mem _ _ hc)
  case blankAttr =>
    rw [blank (.inr (by omega))]
    exact byteAt_of_memLookup (memLookup_filled_attr s.mem _ _ hc)
  case outside =>
    have notFb : ¬ (p.vgaBase ≤ a ∧ a < p.vgaBase + 2 * cells p) := fun h => by
      rw [(inFb_iff p a).2 h] at outside
      cases outside
    rw [blank (by omega)]
    exact byteAt_drawn_other .empty ((fillEvents_storesInFb p _ _).untouched outside)

/-- Settles O44: the phases in turn, and the bytes that PanicBody and then the message leave. -/
theorem bootAfterAFailedSelfTest : Obligations.BootAfterAFailedSelfTest := by
  intro s v ready rest p msg n k toPanicEnd started valid attrs _ row0 fits oracle answers noEcho polls
  have ⟨_, layout⟩ := valid
  have ⟨hcols, hrows, _⟩ := layout
  have h := started.underway
  have hy : s.cursorY.toNat < p.rows := by rw [row0]; exact hrows
  rw [answersFrom_zero] at answers
  obtain ⟨es, panicked⟩ := stepN_boot_mismatch started layout oracle answers noEcho
  rw [← Nat.add_assoc] at panicked
  obtain ⟨t, run, ended⟩ := stepN_bootEnd (s := (s.selfTested false (answersFrom ready rest n 0) es).panicked)
    ⟨h.busy, h.host, h.word⟩ valid hy oracle rfl fun j hj => threSet_true (polls j hj)
  have kept {a : Nat} (ha : p.vgaBase + 2 * n ≤ a) :
      t.byteAt a = (s.selfTested false (answersFrom ready rest n 0) es).panicked.byteAt a :=
    ended.other row0 fits (.inr ha)
  have attr {c : Nat} (hn : n ≤ c) (hc : c < cells p) : t.byteAt (p.vgaBase + 2 * c + 1) = p.panicAttr :=
    (kept (by omega)).trans (byteAt_panicked_attr hc)
  rw [Nat.add_assoc toPanicEnd]
  refine ⟨⟨_, panicked, fun c hc => ?panicAttr⟩, t, stepN_trans panicked run, ended.done, ended.initOk,
    ⟨fun all => ?empty, fun empty c hc => attr (by omega) hc⟩, ended.cursorX, ended.cursorY row0,
    fun c hc => ⟨ended.char row0 fits hc, ended.attr row0 fits hc⟩, fun c hn hk hc => ⟨?msg, attr hn ?onScreen⟩,
    fun c hn hc outside => ⟨?fill, attr hn hc⟩⟩
  case panicAttr => exact (byteAt_startBootPrint _ _).trans (byteAt_panicked_attr hc)
  case empty =>
    refine Nat.eq_zero_of_not_pos fun nonempty => attrs ?_
    exact (all 0 (cells_pos hcols hrows)).symm.trans (ended.attr row0 fits nonempty)
  case msg => exact (kept (by omega)).trans (byteAt_panicked_msg hk hc)
  case onScreen =>
    obtain ⟨_, _, _, _, _, onScreen⟩ := layout
    exact Nat.lt_of_lt_of_le hc onScreen
  case fill => exact (kept (by omega)).trans (byteAt_panicked_fill hc outside)

end Sys2Proof.Machine
end

section
/-! The overrun of a PRINTAT or PANIC text, and what fault entry records and leaves, whatever command faults
(60_exceptions R182, R183, R185). -/

namespace Sys2Proof.Machine

variable {s t : State}

/-! ### The overrun (R182, R185) -/

/-- A character for a cell beyond the screen: its read, then the fault in place of its write. -/
theorem printAtStep_overrun {place : PrintAtPt → Seq} {follow : Unit → State → State} {x c i : Nat}
    (admitted : Admitted s (x + i)) (char : s.byteAt (x + i) ≠ 0#8) (beyond : cells s.params ≤ c) :
    printAtTurn (.mem x) (land place follow) (.read c i) s = .next ((s.afterMemRead (x + i)).enterFault .fbOverrun) := by
  rw [printAtTurn, runAccess_memRead rfl (readFault_of_admitted admitted), printAtAfter,
    printAtByte_overrun (s := s.afterMemRead _) char beyond]
  rfl

/-- Settles O16: PRINTAT and PANIC run the same PrintAtBody, whose read comes before its check of the cell. -/
theorem overrunFaultsBeforeTheWrite : Obligations.OverrunFaultsBeforeTheWrite := by
  intro s col row c i beyond admitted
  refine ⟨fun hq char => ?_, fun hq char => ?_, fun hq terminated => ?_, fun hq terminated => ?_⟩
  · exact (exec_printat_at col row hq).trans (printAtStep_overrun admitted char beyond)
  · exact (exec_panic_msg hq).trans (printAtStep_overrun admitted char beyond)
  · exact (exec_printat_at col row hq).trans (printAtStep_end admitted terminated)
  · exact (exec_panic_msg hq).trans (printAtStep_end admitted terminated)

/-! ### Fault entry (R183) -/

/-- A step that enters FAULT records a code and CMD, empties SEQ and leaves INIT_OK and TXRDY. -/
theorem Stepped.enters_fault {x : Option Access} (h : Stepped s t x) (running : s.state ≠ .fault)
    (fault : t.state = .fault) : t.faultCode.isSome = true ∧ t.faultCmd = s.cmd ∧ t.seq = .empty ∧
      t.initOk = s.initOk ∧ t.txrdy = s.txrdy := by
  rcases h with ⟨a, v, u, _, hp, hl⟩ | ⟨_, c, rfl⟩
  · have ends := hl.ends
    rw [perform_got hp] at ends
    rcases ends with ⟨hs, _⟩ | ⟨hs, _⟩ | ⟨c, _, code, cmd, seq, initOk, txrdy⟩
    · exact absurd (hs.symm.trans fault) running
    · simp [fault] at hs
    · exact ⟨by simp [code], cmd, seq, initOk, txrdy⟩
  · exact ⟨rfl, rfl, rfl, rfl, rfl⟩

/-- PrintBody of a Rom text raises no fault (20_memory R64). -/
theorem printAfter_rom_not_raised (str : List Byte) (p : PrintPt) (v : Byte) (s : State) (f : FaultCode) :
    (printAfter (.rom str) p v s).2 ≠ .raised f := by
  cases p with
  | char j col row b => nofun
  | read j col row => rw [printAfter, printByte]; split <;> nofun
  | attr j col row => rw [printAfter, printText_rom, printByte]; split <;> nofun

/-- BOOT's Print phase goes on, to itself or to SendBody, where its text raises no fault. -/
theorem bootPrintLand_state {r : State × Flow PrintPt Unit} (hr : ∀ f, r.2 ≠ .raised f) :
    (bootPrintLand r).state = r.1.state := by
  obtain ⟨w, p | _ | f⟩ := r
  · rfl
  · rw [bootPrintLand_ended]; rfl
  · exact absurd rfl (hr f)

/-- A step of BOOT's Print phase keeps STATE: the one phase in which BOOT moves CURSOR enters no FAULT. -/
theorem exec_bootPrint_state {p : PrintPt} (hq : s.seq = .bootPrint p) (run : exec .boot s = .next t) :
    t.state = s.state := by
  rw [exec_boot_print hq] at run
  obtain ⟨x, hx, ⟨v, u, hp, rfl⟩ | ⟨f, hp, rfl⟩⟩ := runAccess_next run
  · obtain ⟨_, _, moved⟩ := computed_printAfter (.rom s.params.bootMsg) p v u
    rw [bootPrintLand_state (printAfter_rom_not_raised s.params.bootMsg p v u), moved, perform_got hp]
  · obtain ⟨a, rfl, _⟩ := perform_raised hp
    cases p <;> cases hx

/-- Where a step of any command but PRINT enters FAULT, CURSOR is as it was (41_console R132). -/
theorem exec_fault_cursor {i : Instr} (run : exec i s = .next t) (running : s.state ≠ .fault) (fault : t.state = .fault)
    (print : i ≠ .print) : t.cursorX = s.cursorX ∧ t.cursorY = s.cursorY := by
  by_cases boot : i = .boot
  · subst boot
    refine Classical.byContradiction fun moved => ?_
    rcases (exec_writes run).bootCursor (Classical.not_and_iff_not_or_not.1 moved) with inside | ⟨_, p, sending⟩
    · cases hq : s.seq with
      | bootPrint p => exact running ((exec_bootPrint_state hq run).symm.trans fault)
      | print p => simp [exec, execBoot, hq] at run
      | _ => simp [hq, inPrint] at inside
    · obtain ⟨_, _, empty, _⟩ := (exec_next run).enters_fault running fault
      cases sending.symm.trans empty
  · exact (exec_writes run).cursor print boot

/-- Settles O17: what the end of a step that enters FAULT leaves, and what its command writes of CURSOR. -/
theorem faultEntryRecordsTheCommand : Obligations.FaultEntryRecordsTheCommand := by
  intro i s t busy run
  have running : s.state ≠ .fault := by simp [busy]
  have stepped := exec_next run
  have same := stepped.sameCommand
  refine ⟨fun fault => ?entry, fun noFault => ?kept⟩
  case entry =>
    obtain ⟨code, cmd, seq, initOk, txrdy⟩ := stepped.enters_fault running fault
    exact ⟨code, cmd, seq, initOk, txrdy, same.cmd, same.ptr, same.len, exec_fault_cursor run running fault⟩
  case kept =>
    rcases stepped.faultRegs with ⟨_, kept⟩ | ⟨fault, _⟩
    · exact kept
    · exact absurd fault noFault

end Sys2Proof.Machine
end

section
/-! BUSY is never an end (60_exceptions R190): each access a command's SEQ may stand at is performed or raises a fault of the
spec, so the model's own stops are not reached from a running command. -/

namespace Sys2Proof.Machine

variable {s : State}

/-! ### An access the model does not stop on -/

/-- There is an access, and it is performed or raises a fault of the spec: the model does not stop on it. -/
def GoesOn (s : State) (x : Option Access) : Prop := Makes s x ∨ ∃ a, x = some (.memRead a)

theorem runAccess_of_goesOn {P R : Type} {access : P → State → Option Access}
    {after : P → Byte → State → State × Flow P R} {landing : State × Flow P R → State} {p : P}
    (h : GoesOn s (access p s)) : ∃ t, runAccess access after landing p s = .next t := by
  rcases h with ⟨x, v, u, hx, hp⟩ | ⟨a, hx⟩
  · exact runAccess_got hx hp
  · rcases hr : readFault s.params a with _ | f
    · exact ⟨_, runAccess_memRead hx hr⟩
    · exact ⟨_, runAccess_memRead_fault hx hr⟩

theorem goesOn_printAccess {a : Nat} {p : PrintPt} (hp : p.onScreen s.params) :
    GoesOn s (printAccess (.mem a) p s) := by
  cases p with
  | read j col row => exact .inr ⟨_, rfl⟩
  | _ => exact .inl (makes_printAccess hp trivial)

theorem goesOn_printAtAccess {a : Nat} {p : PrintAtPt} (hp : p.onScreen s.params) :
    GoesOn s (printAtAccess (.mem a) p s) := by
  cases p with
  | read k j => exact .inr ⟨_, rfl⟩
  | char k j b => exact .inl (makes_memWrite rfl (printAtAccess_inFb (src := .mem a) hp rfl))

theorem goesOn_sendAccess (s : State) (a : Nat) (p : SendPt) : GoesOn s (sendAccess (.mem a) p s) := by
  cases p with
  | read j => exact .inr ⟨_, rfl⟩
  | _ => exact .inl (makes_sendAccess trivial)

/-! ### The command under way -/

/-- The first step of a command other than BOOT: its first access, or the fault of its operands. -/
theorem Inv.exec_start (h : Inv s) (hq : s.seq = .empty) {i : Instr} (boot : i ≠ .boot) : ∃ t, exec i s = .next t := by
  cases i with
  | init =>
    rw [exec_init_at (.inr ⟨hq, rfl⟩)]
    exact runAccess_of_goesOn (.inl (makes_initAccess s _))
  | txrdy => exact ⟨_, exec_txrdy hq⟩
  | sendline =>
    rw [exec_sendline_at (.inr ⟨hq, rfl⟩)]
    exact runAccess_of_goesOn (goesOn_sendAccess s _ _)
  | clear =>
    rw [exec_clear_at (.inr ⟨hq, rfl⟩)]
    exact runAccess_of_goesOn (.inl (makes_fillAccess h.cells_pos))
  | print =>
    rw [exec_printing_at (.inr ⟨hq, rfl⟩)]
    exact runAccess_of_goesOn (goesOn_printAccess ⟨h.cols_pos, h.cursorY⟩)
  | printat col row =>
    rw [exec_printat_start col row hq]
    rcases printAtStart_mem col.toNat row.toNat s with ⟨e, _⟩ | ⟨f, e⟩ <;> rw [e]
    · rw [runStart_goto]
      exact runAccess_of_goesOn (goesOn_printAtAccess trivial)
    · exact ⟨_, rfl⟩
  | panic =>
    rw [exec_panic_fill_at (.inr ⟨hq, rfl⟩)]
    exact runAccess_of_goesOn (.inl (makes_fillAccess h.cells_pos))
  | boot => exact absurd rfl boot

/-- Under the invariant the command in CMD has a next step wherever its SEQ stands: SEQ belongs to it, and its writes
go to the screen (10_state R21, 20_memory R65). -/
theorem Inv.exec_progress (h : Inv s) {i : Instr} (word : decode s.cmd = .command i) : ∃ t, exec i s = .next t := by
  by_cases boot : i = .boot
  · obtain ⟨t, run, _⟩ := h.boot_noFault (boot ▸ word)
    exact ⟨t, boot ▸ run⟩
  cases hq : s.seq with
  | empty => exact h.exec_start hq boot
  | init p =>
    cases word.symm.trans (h.fits hq)
    rw [exec_init_at (.inl hq)]
    exact runAccess_of_goesOn (.inl (makes_initAccess s p))
  | sendline p =>
    cases word.symm.trans (h.fits hq)
    rw [exec_sendline_at (.inl hq)]
    exact runAccess_of_goesOn (goesOn_sendAccess s _ p)
  | clear p =>
    obtain ⟨clear, onScreen⟩ := h.fits hq
    cases word.symm.trans clear
    rw [exec_clear_at (.inl hq)]
    exact runAccess_of_goesOn (.inl (makes_fillAccess onScreen))
  | print p =>
    obtain ⟨print, onScreen⟩ := h.fits hq
    cases word.symm.trans print
    rw [exec_print_at hq]
    exact runAccess_of_goesOn (goesOn_printAccess onScreen)
  | printat p =>
    obtain ⟨⟨col, row, printat⟩, onScreen⟩ := h.fits hq
    cases word.symm.trans printat
    rw [exec_printat_at col row hq]
    exact runAccess_of_goesOn (goesOn_printAtAccess onScreen)
  | panicFill p =>
    obtain ⟨panic, onScreen⟩ := h.fits hq
    cases word.symm.trans panic
    rw [exec_panic_fill hq]
    exact runAccess_of_goesOn (.inl (makes_fillAccess onScreen))
  | panicMsg p =>
    obtain ⟨panic, onScreen⟩ := h.fits hq
    cases word.symm.trans panic
    rw [exec_panic_msg hq]
    exact runAccess_of_goesOn (goesOn_printAtAccess onScreen)
  | _ =>
    have other := h.fits hq
    simp [Machine.seqFits, word, boot] at other

/-- While BUSY the ENGINE always steps: an illegal word faults, and a command goes on. -/
theorem Inv.engineBusy_progress (h : Inv s) : ∃ t, engineBusy s = .next t := by
  cases word : decode s.cmd with
  | command i =>
    rw [engineBusy_command word]
    exact h.exec_progress word
  | illegal why => exact ⟨s.enterFault .illegalCmd, by simp [engineBusy, word]⟩

/-- Settles O53: the next step is the ENGINE's, or that of a move of the host that lets it step or stops nothing. -/
theorem busyAlwaysHasANextStep : Obligations.BusyAlwaysHasANextStep := by
  intro s inv busy allowed
  cases host : s.host with
  | nil =>
    have engine : step s = engineBusy s := by simp [step, systemStep, host, engineStep, busy]
    exact engine ▸ inv.engineBusy_progress
  | cons m rest =>
    have move : step s = hostMove s m rest := by simp [step, systemStep, host]
    rw [move]
    rcases hostMove_busy busy (allowed m rest host) rest with ⟨_, e⟩ | ⟨_, e⟩ | ⟨_, e⟩ | ⟨vs, e⟩ <;> rw [e]
    · exact inv.engineBusy_progress
    · exact (inv.setHost rest).engineBusy_progress
    · exact ⟨_, rfl⟩
    · exact ⟨_, rfl⟩

end Sys2Proof.Machine
end

section
/-! Where the model stops on the host: the duties it may not break and the reads it is not granted (70_reset R225, 92 D28, 93
I23). -/

namespace Sys2Proof.Machine

variable {s : State}

/-! ### A write of CMD, PTR or LEN outside IDLE -/

theorem hostWriteCmd_busy (busy : s.state = .busy) (w : Word) : hostWriteCmd s w = .fault .hostWriteWhileBusy := by
  simp [hostWriteCmd, busy]

theorem hostOperandWrite_busy (busy : s.state = .busy) (t : State) :
    hostOperandWrite s t = .fault .hostWriteWhileBusy := by
  simp [hostOperandWrite, busy]

/-- The registers a command is given in are CMD at 0x00, PTR at 0x04 and LEN at 0x08 (10_state R22). -/
theorem hostRegWrite_operand_busy {off : Nat} (operand : off = 0x00 ∨ off = 0x04 ∨ off = 0x08)
    (busy : s.state = .busy) (v : Word) : hostRegWrite s (hostRegAt off) v = .fault .hostWriteWhileBusy := by
  rcases operand with rfl | rfl | rfl
  case inl => exact hostWriteCmd_busy busy v
  case inr.inl => exact hostOperandWrite_busy busy _
  case inr.inr => exact hostOperandWrite_busy busy _

theorem hostOperandWrite_stopped (stopped : s.state = .done ∨ s.state = .fault) (t : State) :
    hostOperandWrite s t = .fault .hostWriteWhenStopped := by
  rcases stopped with h | h <;> simp [hostOperandWrite, h]

theorem hostRegWrite_operand_stopped {off : Nat} (operand : off = 0x00 ∨ off = 0x04 ∨ off = 0x08)
    (stopped : s.state = .done ∨ s.state = .fault) (v : Word) :
    hostRegWrite s (hostRegAt off) v = .fault .hostWriteWhenStopped := by
  rcases operand with rfl | rfl | rfl
  case inl => exact hostWriteCmd_stopped stopped v
  case inr.inl => exact hostOperandWrite_stopped stopped _
  case inr.inr => exact hostOperandWrite_stopped stopped _

/-! ### A read while BUSY -/

/-- While BUSY the ENGINE grants STATUS and CURSOR only (70_reset R225). -/
theorem readableWhileBusy_hostRegAt {off : Nat} (status : off ≠ 0x0C) (cursor : off ≠ 0x10) :
    readableWhileBusy (hostRegAt off) = false := by
  unfold hostRegAt
  rw [if_neg status, if_neg cursor]
  repeat' split
  all_goals rfl

/-! ### A supply of text -/

theorem step_supply {a : Nat} {b : Byte} {rest : List HostMove} (h : s.host = .supply a b :: rest) :
    step s = hostSupply (s.setHost rest) a b := by
  simp [step, systemStep, h, hostMove]

theorem hostSupply_busy (busy : s.state = .busy) (a : Nat) (b : Byte) :
    hostSupply s a b = .fault .hostSupplyWhileBusy := if_pos busy

theorem isTextMemory_eq_false {p : Params} {a : Nat}
    (noText : inFb p a = true ∨ isReadable p a = false ∨ 2 ^ p.addrWidth ≤ a) : isTextMemory p a = false := by
  rcases noText with inFb | unreadable | outside
  case inl => simp only [isTextMemory, inFb, Bool.not_true, Bool.and_false, Bool.false_and]
  case inr.inl => simp only [isTextMemory, unreadable, Bool.and_false]
  case inr.inr =>
    have notInMem : decide (a < 2 ^ p.addrWidth) = false := decide_eq_false (Nat.not_lt.2 outside)
    simp only [isTextMemory, notInMem, Bool.false_and]

theorem hostSupply_noMemory {a : Nat} (notBusy : s.state ≠ .busy) (noText : isTextMemory s.params a = false) (b : Byte) :
    hostSupply s a b = .fault .hostSupplyNoMemory := by
  simp [hostSupply, notBusy, noText]

/-- Settles O10, duty by duty. -/
theorem hostDutiesStopTheModel : Obligations.HostDutiesStopTheModel := by
  intro s rest
  refine ⟨fun off v host operand => ?write, fun off host aligned status cursor busy => ?read,
    fun a b host busy => ?supplyBusy, fun a b host notBusy noText => ?supplyNoMemory⟩
  case write =>
    have aligned : off % 4 = 0 := by omega
    rw [step_write_offset host aligned]
    exact ⟨fun busy => hostRegWrite_operand_busy (s := s.setHost rest) operand busy v,
      fun stopped => hostRegWrite_operand_stopped (s := s.setHost rest) operand stopped v⟩
  case read =>
    rw [step_read host, ← State.setHost_params s rest, hostRead_offset aligned]
    exact hostReadReg_refused busy (readableWhileBusy_hostRegAt status cursor)
  case supplyBusy => exact (step_supply host).trans (hostSupply_busy (s := s.setHost rest) busy a b)
  case supplyNoMemory =>
    exact (step_supply host).trans
      (hostSupply_noMemory (s := s.setHost rest) notBusy (isTextMemory_eq_false noText) b)

end Sys2Proof.Machine
end

section
/-! INIT on the reference 16550 (70_reset R212, 10_state R45): what each write of InitBody does to the device, the device its
self-test leaves, and the whole command. -/

namespace Sys2Proof.Machine

variable {s u : State} {d : Uart}

/-! ### The reference device, write by write (10_state R41 to R43, R45, R51) -/

section Device
variable (ref : d.mode = .ref)
include ref

theorem Uart.afterWrite_lineControl (v : Byte) : d.afterWrite .lineControl v = { d with lcr := v } := by
  simp [Uart.afterWrite, ref, Uart.refWrite]

theorem Uart.afterWrite_modemControl (v : Byte) :
    d.afterWrite .modemControl v = { d with mcr := v &&& 0x1F#8 } := by
  simp [Uart.afterWrite, ref, Uart.refWrite]

/-- FCR 0x07 enables the FIFOs and empties both (10_state R42). -/
theorem Uart.afterWrite_fifosOn :
    d.afterWrite .fifoControl 0x07#8 = { d with fcr := 0x01#8, rx := [], tx := [] } := by
  simp [Uart.afterWrite, ref, Uart.refWrite, fcrKept]

/-- In loopback a transmitted byte comes to the empty receive FIFO and not to the line (10_state R43, R45). -/
theorem Uart.afterWrite_data_looped (dlab : d.dlab = false) (looped : d.loopback = true) (empty : d.rx = [])
    (v : Byte) : d.afterWrite .data v = { d with rx := [v] } := by
  have one : d.received v = [v] := by simp [Uart.received, empty]
  simp [Uart.afterWrite, ref, Uart.refWrite, dlab, Uart.refTransmit, looped, one]

/-- With DLAB clear a write at offset 1 reaches IER (10_state R46). -/
theorem Uart.afterWrite_intEnable (dlab : d.dlab = false) (v : Byte) :
    d.afterWrite .intEnable v = { d with ier := v &&& 0x0F#8 } := by
  simp [Uart.afterWrite, ref, Uart.refWrite, dlab]

/-- A read of RBR removes its byte (10_state R45). -/
theorem Uart.afterRead_data (dlab : d.dlab = false) : d.afterRead .data = { d with rx := d.rx.tail } := by
  simp [Uart.afterRead, ref, Uart.refAfterRead, dlab]

end Device

theorem portAnswer_data_ref (ref : s.uart.mode = .ref) (dlab : s.uart.dlab = false) :
    s.portAnswer .data = s.uart.rx.headD 0x00#8 := by
  simp [State.portAnswer, ref, Uart.refRead, dlab]

/-! ### The device through InitBody -/

/-- The configuration bytes of 00_scope R6. -/
structure ReferenceBytes (p : Params) : Prop where
  ierOff : p.ierOff = 0x00#8
  lcrDlab : p.lcrDlab = 0x80#8
  lcr8n1 : p.lcr8n1 = 0x03#8
  fcrInit : p.fcrInit = 0x07#8
  mcrNormal : p.mcrNormal = 0x0B#8
  mcrLoop : p.mcrLoop = 0x1B#8
  mcrFinal : p.mcrFinal = 0x0B#8

/-- The device after the nine writes that come before the readback (40_uart R103, `initWrites`). -/
def Uart.afterInitWrites (d : Uart) (p : Params) : Uart :=
  d |>.afterWrite .intEnable p.ierOff
    |>.afterWrite .lineControl p.lcrDlab
    |>.afterWrite .data (divisorLow p)
    |>.afterWrite .intEnable (divisorHigh p)
    |>.afterWrite .lineControl p.lcr8n1
    |>.afterWrite .fifoControl p.fcrInit
    |>.afterWrite .modemControl p.mcrNormal
    |>.afterWrite .modemControl p.mcrLoop
    |>.afterWrite .data p.testByte

/-- A device with DIVISOR in its latches, 8N1 and the FIFOs on; MCR and the receive FIFO as given. -/
def Uart.configured (d : Uart) (p : Params) (mcr : Byte) (rx : List Byte) : Uart :=
  { d with dll := divisorLow p, dlm := divisorHigh p, lcr := 0x03#8, fcr := 0x01#8, mcr := mcr, rx := rx, tx := [] }

/-- Only the first write depends on DLAB; then the device is configured, and TEST_BYTE comes back in loopback. -/
theorem Uart.afterInitWrites_ref {p : Params} (bytes : ReferenceBytes p) (ref : d.mode = .ref) :
    d.afterInitWrites p = (d.afterWrite .intEnable 0x00#8).configured p 0x1B#8 [p.testByte] := by
  have first : (d.afterWrite .intEnable 0x00#8).mode = .ref := (afterWrite_mode d _ _).trans ref
  obtain ⟨ierOff, lcrDlab, lcr8n1, fcrInit, mcrNormal, mcrLoop, -⟩ := bytes
  rw [Uart.afterInitWrites, ierOff, lcrDlab, lcr8n1, fcrInit, mcrNormal, mcrLoop]
  generalize d.afterWrite .intEnable 0x00#8 = d at first ⊢
  simp [Uart.afterWrite_lineControl, Uart.afterWrite_data_dlab, Uart.afterWrite_intEnable_dlab,
    Uart.afterWrite_fifosOn, Uart.afterWrite_modemControl, Uart.afterWrite_data_looped, first, Uart.dlab,
    Uart.loopback, Uart.configured]

/-- 8N1 clears DLAB (10_state R41). -/
@[simp] theorem Uart.configured_dlab (d : Uart) (p : Params) (mcr : Byte) (rx : List Byte) :
    (d.configured p mcr rx).dlab = false := by
  simp [Uart.dlab, Uart.configured]

/-- The readback takes TEST_BYTE from the FIFO, and the last write ends loopback (40_uart R103). -/
theorem Uart.configured_readBack {p : Params} (ref : d.mode = .ref) (v : Byte) :
    ((d.configured p 0x1B#8 [v]).afterRead .data).afterWrite .modemControl 0x0B#8 = d.configured p 0x0B#8 [] := by
  rw [Uart.afterRead_data (d := d.configured p 0x1B#8 [v]) ref (by simp), Uart.afterWrite_modemControl (by exact ref)]
  rfl

theorem Uart.afterWrite_intEnable_line (ref : d.mode = .ref) (v : Byte) :
    (d.afterWrite .intEnable v).line = d.line := by
  cases dlab : d.dlab with
  | false => rw [Uart.afterWrite_intEnable ref dlab]
  | true => rw [Uart.afterWrite_intEnable_dlab (.inl ref) dlab]

/-! ### The command -/

/-- Whatever answers, the nine writes leave the device they name (40_uart R107). -/
theorem Started.initRun_rbr_uart (h : Started s .init) :
    ∃ es u, InitRun s 9 .rbr es u ∧ u.uart = s.uart.afterInitWrites s.params := by
  have ier := h.initRun.write rfl fun _ => rfl
  have dlab := ier.write rfl fun _ => rfl
  have dll := dlab.write rfl fun _ => rfl
  have dlm := dll.write rfl fun _ => rfl
  have lcr := dlm.write rfl fun _ => rfl
  have fcr := lcr.write rfl fun _ => rfl
  have mcrNormal := fcr.write rfl fun _ => rfl
  have mcrLoop := mcrNormal.write rfl fun _ => rfl
  have thr := mcrLoop.write rfl fun _ => rfl
  exact ⟨_, _, thr, rfl⟩

/-- INIT from its readback to its end, where TEST_BYTE comes back (40_uart R100, R103). -/
theorem InitRun.success {es : List Event} (nine : InitRun s 9 .rbr es u) (echo : u.portAnswer .data = s.params.testByte) :
    ∃ t, stepN 11 s = .next t ∧ t.state = .idle ∧ t.initOk = true ∧
      t.uart = (u.uart.afterRead .data).afterWrite .modemControl s.params.mcrFinal := by
  have hq : u.seq = .init .rbr := nine.seq.resolve_right (by simp)
  have read := nine.underway.step.trans (exec_init_rbr_match hq (nine.params ▸ echo))
  have last := (nine.underway.portRead .data (.init .mcrFinal)).step.trans (exec_init_mcrFinal rfl)
  have whole := (stepN_add nine.run 2).trans ((stepN_succ read 1).trans (stepN_succ last 0))
  exact ⟨_, whole, rfl, rfl, by simp [nine.params]⟩

/-- The whole of INIT on the reference device: only its first write depends on DLAB. -/
theorem Started.stepN_init_ref (h : Started s .init) (bytes : ReferenceBytes s.params) (ref : s.uart.mode = .ref) :
    ∃ t, stepN 11 s = .next t ∧ t.state = .idle ∧ t.initOk = true ∧
      t.uart = (s.uart.afterWrite .intEnable 0x00#8).configured s.params 0x0B#8 [] := by
  obtain ⟨es, u, nine, device⟩ := h.initRun_rbr_uart
  have first : (s.uart.afterWrite .intEnable 0x00#8).mode = .ref := (afterWrite_mode _ _ _).trans ref
  rw [Uart.afterInitWrites_ref bytes ref] at device
  have echo : u.portAnswer .data = s.params.testByte := by
    rw [portAnswer_data_ref (by rw [device]; exact first) (by simp [device]), device]
    rfl
  obtain ⟨t, run, idle, initOk, final⟩ := nine.success echo
  rw [device, bytes.mcrFinal, Uart.configured_readBack first] at final
  exact ⟨t, run, idle, initOk, final⟩

/-- Settles O25: the device INIT leaves is the configured one, with IER as the first write left it. -/
theorem initOnTheReferenceUart : Obligations.InitOnTheReferenceUart := by
  intro s started ref p ierOff lcrDlab lcr8n1 fcrInit mcrNormal mcrLoop mcrFinal
  obtain ⟨t, run, idle, initOk, device⟩ :=
    started.stepN_init_ref ⟨ierOff, lcrDlab, lcr8n1, fcrInit, mcrNormal, mcrLoop, mcrFinal⟩ ref
  refine ⟨t, run, idle, initOk, ?_⟩
  rw [device]
  refine ⟨rfl, rfl, fun one clock => ?rate, rfl, rfl, rfl, rfl, rfl, Uart.afterWrite_intEnable_line ref _,
    fun dlab => ?ierOff, fun dlab => ?ierKept⟩
  case rate =>
    rw [Uart.divisor_of_latches (p := p) rfl rfl, baudRate_divisor, one, clock]
    decide
  case ierOff => exact (congrArg Uart.ier (Uart.afterWrite_intEnable ref dlab 0x00#8) :)
  case ierKept => exact (congrArg Uart.ier (Uart.afterWrite_intEnable_dlab (.inl ref) dlab 0x00#8) :)

end Sys2Proof.Machine
end
